-- ==== Sys2Proof/Word.lean ====
section
/-! DEFINITION. The value types of the spec's notation (00_scope.md R10 to R12): bytes, byte
sequences, 32-bit words, and the 64-bit two's-complement values of the encoder's scalar inputs. -/

namespace Sys2Proof

/-- A byte, u8 (R12). -/
abbrev Byte := BitVec 8

/-- A finite sequence of bytes; element 0 is the first byte on the wire (R12, R53). -/
abbrev Bytes := List Byte

/-- A 32-bit value: a command word, STATUS, a CSRC entry (R22, R23, R34). -/
abbrev Word := BitVec 32

/-- A 64-bit two's-complement value; rules read it as the integer `toInt` (R11, R26). -/
abbrev S64 := BitVec 64

end Sys2Proof
end

