-- ==== Sys2Proof/Config.lean ====
section
/-! DEFINITION. The parameters a model takes (00_scope.md R8) and the fixed constants (R7). -/

namespace Sys2Proof

/-- The capacities of the byte-sequence registers, in bytes. They are fixed for the life of an
instance (R20) and are carried beside the registers in State (log 3). -/
structure Config where
  /-- IBUF_CAP, also the capacity of DFR.XBLOCK, DFR.PAYLOAD and RES.BYTES (R34, R37). -/
  ibufCap : Nat
  /-- OBUF_CAP, at least 12. -/
  obufCap : Nat
  /-- PAYLOAD_CAP, the capacity of E_PAYLOAD. -/
  payloadCap : Nat
  /-- XBLOCK_CAP, the capacity of E_XBLOCK. -/
  xblockCap : Nat
  deriving DecidableEq, Repr

/-- The reference configuration of R8, used by every vector of 95_test_vectors.md.
DESIGN CHOICE (log 3): the instance after `State.reset` has these capacities. -/
def Config.reference : Config :=
  { ibufCap := 65536, obufCap := 65536, payloadCap := 65536, xblockCap := 262144 }

end Sys2Proof
end

