-- ==== Sys2Proof/Syntax.lean ====
section
/-! DEFINITION. Syntax: the commands of the opcode table, the fields of a command word, the host
registers, the host's actions, and the assembler lines that stand for them. -/

namespace Sys2Proof

/-- One constructor per row of spec/opcode_table.json. No command has an operand field: which
register it reads or writes is fixed by its opcode (R21, R70). -/
inductive Instr where
  /-- ENC, word 0x00000001 (R100). -/
  | enc
  /-- DEC, word 0x00000002 (R130). -/
  | dec
  /-- GET Version, word 0x00000003 (R161). -/
  | getVersion
  /-- GET Padding, word 0x00000013 (R162). -/
  | getPadding
  /-- GET Extension, word 0x00000023 (R163). -/
  | getExtension
  /-- GET Marker, word 0x00000033 (R164). -/
  | getMarker
  /-- GET PayloadType, word 0x00000043 (R165). -/
  | getPayloadType
  /-- GET SequenceNumber, word 0x00000053 (R166). -/
  | getSequenceNumber
  /-- GET Timestamp, word 0x00000063 (R167). -/
  | getTimestamp
  /-- GET Ssrc, word 0x00000073 (R168). -/
  | getSsrc
  /-- GET Csrcs, word 0x00000083 (R169). -/
  | getCsrcs
  /-- GET ExtensionHeader, word 0x00000093 (R170). -/
  | getExtensionHeader
  /-- GET Payload, word 0x000000A3 (R171). -/
  | getPayload
  deriving DecidableEq, Repr

/-- The three fields of a command word (R70). -/
structure CmdFields where
  /-- OP, bits 3:0. -/
  op : BitVec 4
  /-- FID, bits 7:4. -/
  fid : BitVec 4
  /-- RSVD, bits 31:8. -/
  rsvd : BitVec 24
  deriving DecidableEq, Repr

/-- The eleven field identifiers, in the order the source lists them (R73). -/
inductive FieldId where
  | version | padding | extension | marker | payloadType | sequenceNumber | timestamp | ssrc
  | csrcs | extensionHeader | payload
  deriving DecidableEq, Repr

/-- The host registers (R57). DFR has no register number. -/
inductive Reg where
  | cmd | status
  | eSsrc | ePt | ePayload | eSeq | eTs | eCsrcN | eMarker | ePad | eXpresent | eXprofile
  | eXblock | eVersion
  | eCsrc (k : Fin 15)
  | ibuf | obuf
  | resTag | resUint | resCount | resProfile | resBytes
  | resWords (k : Fin 15)
  deriving DecidableEq, Repr

/-- A value the host presents to a register or is given by one: an integer, or a byte sequence
moved whole (R58, R76). DESIGN CHOICE (log 7): integers are unbounded here and a write of one that
does not fit its register is refused. -/
inductive HostValue where
  | int (v : Int)
  | bytes (s : Bytes)
  deriving DecidableEq, Repr

/-- What the host can do to an instance (R221): a write or a read of a numbered register, or reset.
A command is a write to CMD (R22). Reads change no state (R56). -/
inductive HostAction where
  | write (num : BitVec 8) (v : HostValue)
  | read (num : BitVec 8)
  | reset
  deriving DecidableEq, Repr

/-- The lines of the assembler syntax (R76). -/
inductive AsmLine where
  | wr (r : Reg) (v : HostValue)
  | rd (r : Reg)
  | enc
  | dec
  | get (f : FieldId)
  | word (w : Word)
  deriving DecidableEq, Repr

end Sys2Proof
end

