-- ==== Sys2Proof/WellFormed.lean ====
section
/-! DEFINITION. What it is to be well formed: an instruction, the fields of a command word
(30_encoding.md R70 to R74), and a configuration (00_scope.md R8). -/

namespace Sys2Proof

/-- Every term of `Instr` is well formed: no command has an operand field that could be out of
range (R21, R70). The checks on a command word are those of `CmdFields`. -/
def Instr.wf (_ : Instr) : Bool := true

/-- OP is ENC, DEC or GET (R71). -/
def CmdFields.opLegal (f : CmdFields) : Bool :=
  f.op == 1 || f.op == 2 || f.op == 3

/-- RSVD is 0 (R70, R72). -/
def CmdFields.rsvdZero (f : CmdFields) : Bool :=
  f.rsvd == 0

/-- FID is 0 for ENC and DEC (R70, R72). -/
def CmdFields.fidZeroUnlessGet (f : CmdFields) : Bool :=
  f.op == 3 || f.fid == 0

/-- FID names a field, 0 to 10, for GET (R73). A GET with FID 11 to 15 is a legal command word without
a row in the opcode table (R74; log 10). -/
def CmdFields.fieldNamed (f : CmdFields) : Bool :=
  f.op != 3 || decide (f.fid.toNat ≤ 10)

/-- A command word that selects a row of the opcode table. -/
def CmdFields.wf (f : CmdFields) : Bool :=
  f.opLegal && f.rsvdZero && f.fidZeroUnlessGet && f.fieldNamed

/-- The one constraint R8 puts on the capacities: OBUF_CAP >= 12. -/
def Config.wf (c : Config) : Bool :=
  decide (12 ≤ c.obufCap)

end Sys2Proof
end

