-- ==== Sys2Proof/Decode.lean ====
section
/-! DEFINITION. Command decode (30_encoding.md R70 to R75), total on 32-bit words and rejecting by
name, and the encoder written from the same tables. -/

namespace Sys2Proof

/-- Why a word selects no row of the opcode table. -/
inductive CmdReject where
  /-- OP is not ENC, DEC or GET (R71). -/
  | illegalOp
  /-- RSVD is not 0, or FID is not 0 for ENC or DEC (R72). -/
  | reservedBits
  /-- A GET whose FID, 11 to 15, names no field (R74): legal, without a row, always failing (log 10). -/
  | unknownField (fid : BitVec 4)
  deriving DecidableEq, Repr

/-- The fields of a command word (R70). -/
def CmdFields.ofWord (w : Word) : CmdFields :=
  { op := w.extractLsb' 0 4, fid := w.extractLsb' 4 4, rsvd := w.extractLsb' 8 24 }

/-- The command word with these fields (R70). -/
def CmdFields.toWord (f : CmdFields) : Word :=
  f.rsvd ++ f.fid ++ f.op

/-- The GET that field identifier FID selects (R73); 11 to 15 name no field (R74). -/
def getOfFid (fid : BitVec 4) : Except CmdReject Instr :=
  match fid.toNat with
  | 0 => .ok .getVersion
  | 1 => .ok .getPadding
  | 2 => .ok .getExtension
  | 3 => .ok .getMarker
  | 4 => .ok .getPayloadType
  | 5 => .ok .getSequenceNumber
  | 6 => .ok .getTimestamp
  | 7 => .ok .getSsrc
  | 8 => .ok .getCsrcs
  | 9 => .ok .getExtensionHeader
  | 10 => .ok .getPayload
  | _ => .error (.unknownField fid)

/-- DecodeCmd, in the order of R75. A GET with FID 11 to 15, which R75 runs and R160 fails, is rejected
here by name, having no row (DEDUCED, log 10); `issue` completes it with R160's error. -/
def decode (w : Word) : Except CmdReject Instr :=
  let f := CmdFields.ofWord w
  if f.op ≠ 1 ∧ f.op ≠ 2 ∧ f.op ≠ 3 then .error .illegalOp
  else if f.rsvd ≠ 0 then .error .reservedBits
  else if (f.op = 1 ∨ f.op = 2) ∧ f.fid ≠ 0 then .error .reservedBits
  else if f.op = 1 then .ok .enc
  else if f.op = 2 then .ok .dec
  else getOfFid f.fid

/-- The opcode OP of a command (R71). -/
def Instr.op : Instr → BitVec 4
  | .enc => 1
  | .dec => 2
  | .getVersion => 3
  | .getPadding => 3
  | .getExtension => 3
  | .getMarker => 3
  | .getPayloadType => 3
  | .getSequenceNumber => 3
  | .getTimestamp => 3
  | .getSsrc => 3
  | .getCsrcs => 3
  | .getExtensionHeader => 3
  | .getPayload => 3

/-- The field identifier FID of a command; 0 for ENC and DEC (R70, R73). -/
def Instr.fid : Instr → BitVec 4
  | .enc => 0
  | .dec => 0
  | .getVersion => 0
  | .getPadding => 1
  | .getExtension => 2
  | .getMarker => 3
  | .getPayloadType => 4
  | .getSequenceNumber => 5
  | .getTimestamp => 6
  | .getSsrc => 7
  | .getCsrcs => 8
  | .getExtensionHeader => 9
  | .getPayload => 10

/-- The command word of a command: OP and FID from the tables, RSVD 0 (R70). -/
def encode (i : Instr) : Word :=
  CmdFields.toWord { op := i.op, fid := i.fid, rsvd := 0 }

/-- The GET of a field identifier (R73). -/
def FieldId.instr : FieldId → Instr
  | .version => .getVersion
  | .padding => .getPadding
  | .extension => .getExtension
  | .marker => .getMarker
  | .payloadType => .getPayloadType
  | .sequenceNumber => .getSequenceNumber
  | .timestamp => .getTimestamp
  | .ssrc => .getSsrc
  | .csrcs => .getCsrcs
  | .extensionHeader => .getExtensionHeader
  | .payload => .getPayload

/-- The instruction the decoder reads from an opcode-table word: the low `nbits` bits of `w`, every
bit above them 0. A command is one 32-bit value, written whole to CMD, so no byte order applies
(log 16); a value that does not fit 32 bits is no command word. -/
def decodeTableWord (nbits w : Nat) : Option Instr :=
  let v := w % 2 ^ nbits
  if v < 2 ^ 32 then
    match decode (BitVec.ofNat 32 v) with
    | .ok i => some i
    | .error _ => none
  else none

end Sys2Proof
end

