-- ==== Sys2Proof/Machine/Errors.lean ====
section
/-! DEFINITION. The errors a command reports: classes, codes and the encoder input they name
(60_exceptions.md R190 to R192). They are reports in STATUS, not stops of the machine. -/

namespace Sys2Proof.Machine

/-- Error classes (R190). -/
inductive ErrClass where
  | none | validation | malformed | accessor | command
  deriving DecidableEq, Repr

/-- Error codes (R191). -/
inductive ErrCode where
  | range | csrcCount | extLength | missing | outputCapacity
  | shortHeader | shortCsrc | shortExtension | badPadding
  | unknownField | noFrame
  | illegalOp | reservedBits
  deriving DecidableEq, Repr

/-- The encoder input a validation error names (R192). -/
inductive InputField where
  | none | ssrc | pt | payload | seq | ts | csrcs | marker | pad | xprofile | xblock | version
  deriving DecidableEq, Repr

/-- What `raise Class(CODE, field, index)` carries (R15); field and index default to NONE and 0. -/
structure CmdError where
  code : ErrCode
  field : InputField := .none
  index : BitVec 4 := 0
  deriving DecidableEq, Repr

end Sys2Proof.Machine
end

