-- ==== Sys2Proof/Machine/State.lean ====
section
/-! DEFINITION. The architectural state (10_state.md R20), its reset values (70_reset_and_hazards.md
R220), and the reasons a step can stop. -/

namespace Sys2Proof.Machine

/-- An encoder input that is written at reset (R25): its value and its written bit (R29). -/
structure DefaultReg (α : Type) where
  value : α
  written : Bool
  deriving DecidableEq, Repr

/-- The encoder input registers (R25). A register that resets unwritten is an `Option`: `none` is
the spec's own state "written bit clear, no value" (R29, R31), `some v` is written bit set and
value v (log 5). -/
structure EIR where
  ssrc : Option S64
  pt : Option S64
  payload : Option Bytes
  seq : Option S64
  ts : Option S64
  csrcN : DefaultReg S64
  csrc : Vector (Option S64) 15
  marker : DefaultReg Bool
  pad : DefaultReg S64
  xpresent : DefaultReg Bool
  xprofile : Option S64
  xblock : Option Bytes
  version : DefaultReg S64
  deriving DecidableEq, Repr

/-- EIR after reset and after every ENC: the source's default arguments, the rest unwritten
(R25, R29). -/
def EIR.reset : EIR :=
  { ssrc := none, pt := none, payload := none, seq := none, ts := none
    csrcN := ⟨0, true⟩
    csrc := Vector.replicate 15 none
    marker := ⟨false, true⟩
    pad := ⟨0, true⟩
    xpresent := ⟨false, true⟩
    xprofile := none, xblock := none
    version := ⟨2, true⟩ }

/-- The decoded frame registers (R34). -/
structure DFR where
  valid : Bool
  version : BitVec 2
  p : Bool
  x : Bool
  cc : BitVec 4
  m : Bool
  pt : BitVec 7
  seq : BitVec 16
  ts : Word
  ssrc : Word
  csrc : Vector Word 15
  xprofile : BitVec 16
  xlen : BitVec 16
  xblock : Bytes
  payload : Bytes
  deriving DecidableEq, Repr

/-- DFR's reset value (R34): no frame. -/
def DFR.reset : DFR :=
  { valid := false, version := 0, p := false, x := false, cc := 0, m := false, pt := 0, seq := 0
    ts := 0, ssrc := 0, csrc := Vector.replicate 15 0, xprofile := 0, xlen := 0, xblock := []
    payload := [] }

/-- The shapes of an accessor value (R38); TAG 7 is never written and is no constructor (log 14). -/
inductive ResTag where
  | empty | uint | bool | words | bytes | extAbsent | extPresent
  deriving DecidableEq, Repr

/-- The result register (R37). -/
structure Res where
  tag : ResTag
  uint : Word
  count : BitVec 4
  words : Vector Word 15
  profile : BitVec 16
  bytes : Bytes
  deriving DecidableEq, Repr

/-- RES's reset value (R37): TAG = EMPTY and every other field 0 or []. -/
def Res.reset : Res :=
  { tag := .empty, uint := 0, count := 0, words := Vector.replicate 15 0, profile := 0
    bytes := [] }

/-- The whole state: the registers of R20, the capacities (R8, log 3), and the host's side of the
interface as plain data (logs 1 and 4). -/
structure State where
  /-- The capacities, fixed for the life of the instance (R8, R20). -/
  cfg : Config
  /-- STATUS (R23). -/
  status : Word
  /-- EIR (R25). -/
  eir : EIR
  /-- IBUF (R32). -/
  ibuf : Bytes
  /-- OBUF (R33). -/
  obuf : Bytes
  /-- DFR (R34). -/
  dfr : DFR
  /-- RES (R37). -/
  res : Res
  /-- The host's actions not yet performed, oldest first (R59). The model's own field, log 1. -/
  pending : List HostAction
  /-- The values host reads have returned, oldest first (R59). The model's own field, log 4. -/
  returned : List HostValue
  deriving DecidableEq, Repr

/-- The machine right after reset, with capacities `c` and nothing asked of it (R220). -/
def State.resetWith (c : Config) : State :=
  { cfg := c, status := 0, eir := EIR.reset, ibuf := [], obuf := [], dfr := DFR.reset
    res := Res.reset, pending := [], returned := [] }

/-- The machine right after reset, in the reference configuration (R220, R8; log 3). -/
def State.reset : State :=
  State.resetWith Config.reference

/-- The faults: none. Every error of RTPC completes its command and is reported in STATUS, after
which the next command may run at once (R194, R195, R199). Nobody raises a fault (log 9). -/
inductive Fault
  deriving DecidableEq, Repr

/-- The reasons the model has no step. The host-access ones are R58's refusals and U20's; a refused
access changes no state. All are raised by the host port (Machine/HostPort.lean) and are safe: the
model stops where the access has no effect. -/
inductive Refusal where
  /-- An instruction without a meaning. No arm of `exec` raises it: safe. -/
  | notModelled (mnemonic : String)
  /-- An access to a number that names no register (R58): safe. -/
  | noRegister (num : BitVec 8)
  /-- A write to a read-only register (R58): safe. -/
  | readOnly (r : Reg)
  /-- A read of a write-only register (R58): safe. -/
  | writeOnly (r : Reg)
  /-- A byte sequence longer than the register's capacity (R58): safe. -/
  | tooLong (r : Reg)
  /-- A value other than 0 or 1 for a 1-bit register (R27, R58): safe. -/
  | notABit (r : Reg)
  /-- An integer outside the register's width, which the host cannot present (R26, log 7): safe. -/
  | outOfWidth (r : Reg)
  /-- An integer for a byte-sequence register, or a byte sequence for another (log 7): safe. -/
  | wrongKind (r : Reg)
  deriving DecidableEq, Repr

end Sys2Proof.Machine
end

