-- ==== Sys2Proof/Machine/Flags.lean ====
section
/-! DEFINITION. STATUS, RTPC's only flags (10_state.md R23, R24): its fields, and the values the
completions write (60_exceptions.md R190 to R194). -/

namespace Sys2Proof.Machine

/-- STATUS.CLASS values (R190). -/
def ErrClass.val : ErrClass → BitVec 3
  | .none => 0
  | .validation => 1
  | .malformed => 2
  | .accessor => 3
  | .command => 4

/-- The class of each code (R191). -/
def ErrCode.cls : ErrCode → ErrClass
  | .range => .validation
  | .csrcCount => .validation
  | .extLength => .validation
  | .missing => .validation
  | .outputCapacity => .validation
  | .shortHeader => .malformed
  | .shortCsrc => .malformed
  | .shortExtension => .malformed
  | .badPadding => .malformed
  | .unknownField => .accessor
  | .noFrame => .accessor
  | .illegalOp => .command
  | .reservedBits => .command

/-- STATUS.CODE values (R191). -/
def ErrCode.val : ErrCode → BitVec 8
  | .range => 0x01
  | .csrcCount => 0x02
  | .extLength => 0x03
  | .missing => 0x04
  | .outputCapacity => 0x05
  | .shortHeader => 0x10
  | .shortCsrc => 0x20
  | .shortExtension => 0x30
  | .badPadding => 0x40
  | .unknownField => 0x50
  | .noFrame => 0x51
  | .illegalOp => 0x60
  | .reservedBits => 0x61

/-- STATUS.FIELD values (R192). -/
def InputField.val : InputField → BitVec 4
  | .none => 0
  | .ssrc => 1
  | .pt => 2
  | .payload => 3
  | .seq => 4
  | .ts => 5
  | .csrcs => 6
  | .marker => 7
  | .pad => 8
  | .xprofile => 9
  | .xblock => 10
  | .version => 11

/-- STATUS after success: `(OP << 20) | 1` (R193). -/
def statusOk (op : BitVec 4) : Word :=
  (op.setWidth 32 <<< 20) ||| 1

/-- STATUS after an error:
`(OP << 20) | (INDEX << 16) | (FIELD << 12) | (CODE << 4) | (CLASS << 1)` (R194). -/
def statusError (op : BitVec 4) (e : CmdError) : Word :=
  (op.setWidth 32 <<< 20) ||| (e.index.setWidth 32 <<< 16) ||| (e.field.val.setWidth 32 <<< 12)
    ||| (e.code.val.setWidth 32 <<< 4) ||| (e.code.cls.val.setWidth 32 <<< 1)

/-- STATUS.OK, bit 0 (R23). -/
def stOk (st : Word) : Bool := st.getLsbD 0

/-- STATUS.CLASS, bits 3:1 (R23). -/
def stClass (st : Word) : BitVec 3 := st.extractLsb' 1 3

/-- STATUS.CODE, bits 11:4 (R23). -/
def stCode (st : Word) : BitVec 8 := st.extractLsb' 4 8

/-- STATUS.FIELD, bits 15:12 (R23). -/
def stField (st : Word) : BitVec 4 := st.extractLsb' 12 4

/-- STATUS.INDEX, bits 19:16 (R23). -/
def stIndex (st : Word) : BitVec 4 := st.extractLsb' 16 4

/-- STATUS.OP, bits 23:20 (R23). -/
def stOp (st : Word) : BitVec 4 := st.extractLsb' 20 4

/-- STATUS bits 31:24, reserved, always 0 (R23). -/
def stReserved (st : Word) : BitVec 8 := st.extractLsb' 24 8

end Sys2Proof.Machine
end

