-- ==== Sys2Proof/Machine/Ops.lean ====
section
/-! DEFINITION. The shared operations: byte sequences and big-endian fields (00_scope.md R11 to R13,
20_memory.md R51), one named update per field of State, and the completion of a command, success or
error (60_exceptions.md R193 to R195). There is no return from an error (R199). -/

namespace Sys2Proof.Machine

/-- `ceildiv(n, 4)`: the words that n bytes take, rounded up (R11). -/
def ceildiv4 (n : Nat) : Nat := (n + 3) / 4

/-- `zeros(n)` (R12). -/
def zeros (n : Nat) : Bytes := List.replicate n 0

/-- `BE(v, n)`: byte i is bits `8*(n-1-i)+7 : 8*(n-1-i)` of v (R13). -/
def be (v n : Nat) : Bytes :=
  (List.range n).map fun i => BitVec.ofNat 8 (v >>> (8 * (n - 1 - i)))

/-- `s[a..b)` (R12). -/
def slice (s : Bytes) (a b : Nat) : Bytes := (s.take b).drop a

/-- `MemRead(s, off, n)` (R13). -/
def memRead (s : Bytes) (off n : Nat) : Bytes := slice s off (off + n)

/-- `MemWrite(s, off, n, v)`: s with its n bytes at off replaced by the bytes v (R13). -/
def memWrite (s : Bytes) (off n : Nat) (v : Bytes) : Bytes := s.take off ++ v ++ s.drop (off + n)

/-- `RdBE(s, off, n)`: the sum of `s[off+i] * 256^(n-1-i)` (R13), as Horner's scheme. -/
def rdBE (s : Bytes) (off n : Nat) : Nat :=
  (memRead s off n).foldl (fun acc b => acc * 256 + b.toNat) 0

/-- `s[i]` (R12); applied only when `i < len(s)`. -/
def byteAt (s : Bytes) (i : Nat) : Byte := s.getD i 0

/-! One named update per field of State that a step writes. -/

/-- `STATUS <- v`. -/
def State.setStatus (s : State) (v : Word) : State := { s with status := v }

/-- EIR is replaced by `v`. -/
def State.setEir (s : State) (v : EIR) : State := { s with eir := v }

/-- `IBUF <- v`. -/
def State.setIbuf (s : State) (v : Bytes) : State := { s with ibuf := v }

/-- `OBUF <- v`. -/
def State.setObuf (s : State) (v : Bytes) : State := { s with obuf := v }

/-- `DFR <- v`, all of it at once (R35). -/
def State.setDfr (s : State) (v : DFR) : State := { s with dfr := v }

/-- `RES <- v`, all of it at once (R37). -/
def State.setRes (s : State) (v : Res) : State := { s with res := v }

/-- The host's remaining actions become `v` (log 1). -/
def State.setPending (s : State) (v : List HostAction) : State := { s with pending := v }

/-- A host read returns `v` (log 4). -/
def State.addReturned (s : State) (v : HostValue) : State :=
  { s with returned := s.returned ++ [v] }

/-- The outputs an error of class `c` clears (R195). The class fixes the command that raised it
(R190): ENC, DEC or GET; a COMMAND error clears nothing. -/
def clearOutputs (c : ErrClass) (s : State) : State :=
  match c with
  | .validation => (s.setObuf []).setEir EIR.reset
  | .malformed => s.setDfr DFR.reset
  | .accessor => s.setRes Res.reset
  | .command => s
  | .none => s

/-- Error completion of the command with opcode `op`: STATUS reports the error, the outputs it
names are cleared, and nothing else changes (R194, R195, R196). -/
def completeError (op : BitVec 4) (e : CmdError) (s : State) : State :=
  (clearOutputs e.code.cls s).setStatus (statusError op e)

/-- Success completion of the command with opcode `op` (R193). -/
def completeOk (op : BitVec 4) (s : State) : State :=
  s.setStatus (statusOk op)

end Sys2Proof.Machine
end

