-- ==== Sys2Proof/Machine/Accessor.lean ====
section
/-! DEFINITION. GET (42_accessor.md R160 to R171): what every GET shares, and one meaning per field
identifier. -/

namespace Sys2Proof.Machine

/-- The fields the UINT tag sets (R37, R38). -/
def Res.ofUint (v : Word) : Res := { Res.reset with tag := .uint, uint := v }

/-- The fields the BOOL tag sets. -/
def Res.ofBool (b : Bool) : Res :=
  { Res.reset with tag := .bool, uint := (BitVec.ofBool b).setWidth 32 }

/-- The fields the WORDS tag sets; entries at index COUNT and above are 0. -/
def Res.ofWords (n : BitVec 4) (l : Vector Word 15) : Res :=
  { Res.reset with
    tag := .words, count := n
    words := Vector.ofFn fun k => if k.val < n.toNat then l[k] else 0 }

/-- The fields the BYTES tag sets. -/
def Res.ofBytes (b : Bytes) : Res := { Res.reset with tag := .bytes, bytes := b }

/-- EXT_ABSENT, or the fields the EXT_PRESENT tag sets (R170). -/
def Res.ofExt (x : Bool) (profile : BitVec 16) (block : Bytes) : Res :=
  if x then { Res.reset with tag := .extPresent, profile := profile, bytes := block }
  else { Res.reset with tag := .extAbsent }

/-- GET of a defined field: NO_FRAME while DFR.VALID = 0, else RES takes the field's value (R160). -/
def completeGet (value : DFR → Res) (s : State) : State :=
  if s.dfr.valid then completeOk 3 (s.setRes (value s.dfr))
  else completeError 3 ⟨.noFrame, .none, 0⟩ s

/-- GET Version (R161). -/
def execGetVersion (s : State) : Host.Outcome State Fault Refusal :=
  .next (completeGet (fun d => Res.ofUint (d.version.setWidth 32)) s)

/-- GET Padding: the flag, not the count (R162). -/
def execGetPadding (s : State) : Host.Outcome State Fault Refusal :=
  .next (completeGet (fun d => Res.ofBool d.p) s)

/-- GET Extension (R163). -/
def execGetExtension (s : State) : Host.Outcome State Fault Refusal :=
  .next (completeGet (fun d => Res.ofBool d.x) s)

/-- GET Marker (R164). -/
def execGetMarker (s : State) : Host.Outcome State Fault Refusal :=
  .next (completeGet (fun d => Res.ofBool d.m) s)

/-- GET PayloadType (R165). -/
def execGetPayloadType (s : State) : Host.Outcome State Fault Refusal :=
  .next (completeGet (fun d => Res.ofUint (d.pt.setWidth 32)) s)

/-- GET SequenceNumber (R166). -/
def execGetSequenceNumber (s : State) : Host.Outcome State Fault Refusal :=
  .next (completeGet (fun d => Res.ofUint (d.seq.setWidth 32)) s)

/-- GET Timestamp (R167). -/
def execGetTimestamp (s : State) : Host.Outcome State Fault Refusal :=
  .next (completeGet (fun d => Res.ofUint d.ts) s)

/-- GET Ssrc (R168). -/
def execGetSsrc (s : State) : Host.Outcome State Fault Refusal :=
  .next (completeGet (fun d => Res.ofUint d.ssrc) s)

/-- GET Csrcs: the CC entries in wire order (R169). -/
def execGetCsrcs (s : State) : Host.Outcome State Fault Refusal :=
  .next (completeGet (fun d => Res.ofWords d.cc d.csrc) s)

/-- GET ExtensionHeader: a frame with X = 0 gives EXT_ABSENT, not an error (R170). -/
def execGetExtensionHeader (s : State) : Host.Outcome State Fault Refusal :=
  .next (completeGet (fun d => Res.ofExt d.x d.xprofile d.xblock) s)

/-- GET Payload (R171). -/
def execGetPayload (s : State) : Host.Outcome State Fault Refusal :=
  .next (completeGet (fun d => Res.ofBytes d.payload) s)

end Sys2Proof.Machine
end

