-- ==== Sys2Proof/Machine/Decoder.lean ====
section
/-! DEFINITION. DEC (41_decoder.md R130 to R142): the cursor-based parse of IBUF, commit. -/

namespace Sys2Proof.Machine

/-- CSRC[0..14] of a frame with `cc` entries starting at `cur`: entry k is the big-endian word at
`cur + 4*k`, and entries at index CC and above are 0 (R134). -/
def csrcTable (s : Bytes) (cur cc : Nat) : Vector Word 15 :=
  Vector.ofFn fun k => if k.val < cc then BitVec.ofNat 32 (rdBE s (cur + 4 * k.val) 4) else 0

/-- The extension section as parsed, and the cursor after it (R135). -/
structure ParsedExt where
  profile : BitVec 16
  words : BitVec 16
  block : Bytes
  cur : Nat
  deriving DecidableEq, Repr

/-- Extension block parsing at the cursor `cur` (R135). -/
def parseExt (s : Bytes) (cur : Nat) (x : Bool) : Except CmdError ParsedExt :=
  if x then
    if s.length - cur < 4 then .error ⟨.shortExtension, .none, 0⟩
    else
      let w := rdBE s (cur + 2) 2
      if s.length - (cur + 4) < 4 * w then .error ⟨.shortExtension, .none, 0⟩
      else .ok
        { profile := BitVec.ofNat 16 (rdBE s cur 2), words := BitVec.ofNat 16 w
          block := slice s (cur + 4) (cur + 4 + 4 * w), cur := cur + 4 + 4 * w }
  else .ok { profile := 0, words := 0, block := [], cur := cur }

/-- Payload boundary detection and padding strip at the cursor `cur` (R136). -/
def parsePayload (s : Bytes) (cur : Nat) (p : Bool) : Except CmdError Bytes :=
  if p then
    let n := (byteAt s (s.length - 1)).toNat
    if 1 ≤ n ∧ n ≤ s.length - cur then .ok (slice s cur (s.length - n))
    else .error ⟨.badPadding, .none, 0⟩
  else .ok (slice s cur s.length)

/-- The decoded frame of the byte sequence `s`, or the first section that is malformed (R130,
R198). -/
def decodeFrame (s : Bytes) : Except CmdError DFR :=
  if s.length < 12 then .error ⟨.shortHeader, .none, 0⟩
  else
    let b0 := byteAt s 0
    let b1 := byteAt s 1
    let p := b0.getLsbD 5
    let x := b0.getLsbD 4
    let cc := b0.extractLsb' 0 4
    if s.length - 12 < 4 * cc.toNat then .error ⟨.shortCsrc, .none, 0⟩
    else do
      let ext ← parseExt s (12 + 4 * cc.toNat) x
      let payload ← parsePayload s ext.cur p
      pure
        { valid := true, version := b0.extractLsb' 6 2, p := p, x := x, cc := cc
          m := b1.getLsbD 7, pt := b1.extractLsb' 0 7
          seq := BitVec.ofNat 16 (rdBE s 2 2), ts := BitVec.ofNat 32 (rdBE s 4 4)
          ssrc := BitVec.ofNat 32 (rdBE s 8 4), csrc := csrcTable s 12 cc.toNat
          xprofile := ext.profile, xlen := ext.words, xblock := ext.block, payload := payload }

/-- DEC (R130). -/
def execDec (s : State) : Host.Outcome State Fault Refusal :=
  match decodeFrame s.ibuf with
  | .ok d => .next (completeOk 2 (s.setDfr d))
  | .error e => .next (completeError 2 e s)

end Sys2Proof.Machine
end

