-- ==== Sys2Proof/Machine/Operands.lean ====
section
/-! DEFINITION. How ENC reads its operands: `Need` and `Range` of 40_encoder.md R101, and the CSRC
list input (10_state.md R28). -/

namespace Sys2Proof.Machine

/-- `Need(R, f)`: the register's value, or MISSING when its written bit is clear (R101). -/
def need {α : Type} (r : Option α) (f : InputField) (k : BitVec 4 := 0) : Except CmdError α :=
  match r with
  | some v => .ok v
  | none => .error ⟨.missing, f, k⟩

/-- `Range(R, w, f)`: the value as a w-bit field, or RANGE when it is negative or `>= 2^w`; never a
truncation (R101, R111). -/
def range (v : S64) (w : Nat) (f : InputField) (k : BitVec 4 := 0) : Except CmdError (BitVec w) :=
  if 0 ≤ v.toInt ∧ v.toInt < 2 ^ w then .ok (BitVec.ofInt w v.toInt) else .error ⟨.range, f, k⟩

/-- `Need` and then `Range` (R101: for each input MISSING before RANGE). -/
def needRange (r : Option S64) (w : Nat) (f : InputField) (k : BitVec 4 := 0) :
    Except CmdError (BitVec w) := do
  let v ← need r f k
  range v w f k

/-- The `n` entries E_CSRC[k], E_CSRC[k+1], ... in order, each present and in range (R28, R101). -/
def readCsrcs (regs : Vector (Option S64) 15) (k n : Nat) : Except CmdError (List Word) :=
  match n with
  | 0 => .ok []
  | n + 1 => do
    let v ← needRange (regs[k]?).join 32 .csrcs (BitVec.ofNat 4 k)
    let rest ← readCsrcs regs (k + 1) n
    pure (v :: rest)

/-- The CSRC list: the count must be 0 to 15, then its entries are read (R28, R101). -/
def readCsrcList (e : EIR) : Except CmdError (List Word) :=
  let n := e.csrcN.value.toInt
  if 0 ≤ n ∧ n ≤ 15 then readCsrcs e.csrc 0 n.toNat else .error ⟨.csrcCount, .csrcs, 0⟩

end Sys2Proof.Machine
end

