-- ==== Sys2Proof/Machine/Encoder.lean ====
section
/-! DEFINITION. ENC (40_encoder.md R100 to R111): validation, the frame's byte sequence, commit. -/

namespace Sys2Proof.Machine

/-- The extension input of a frame: profile identifier and byte block, not yet padded (R25). -/
structure ExtInput where
  profile : BitVec 16
  block : Bytes
  deriving DecidableEq, Repr

/-- The fields of one frame, each inside its domain: what validation leaves of EIR (R101). -/
structure Frame where
  version : BitVec 2
  marker : Bool
  pt : BitVec 7
  seq : BitVec 16
  ts : Word
  ssrc : Word
  csrcs : List Word
  ext : Option ExtInput
  payload : Bytes
  pad : BitVec 8
  deriving DecidableEq, Repr

/-- The extension input, checked and read only when E_XPRESENT = 1 (R101). -/
def readExt (e : EIR) : Except CmdError (Option ExtInput) :=
  if e.xpresent.value then do
    let profile ← needRange e.xprofile 16 .xprofile
    let block ← need e.xblock .xblock
    if ceildiv4 block.length > 65535 then .error ⟨.extLength, .xblock, 0⟩
    else pure (some ⟨profile, block⟩)
  else .ok none

/-- The bytes the extension takes in the frame: `4 + 4*W` when present (R89, R101). -/
def extLength : Option ExtInput → Nat
  | none => 0
  | some x => 4 + 4 * ceildiv4 x.block.length

/-- `total`, the frame's length (R101, R109). -/
def Frame.total (f : Frame) : Nat :=
  12 + 4 * f.csrcs.length + extLength f.ext + f.payload.length + f.pad.toNat

/-- Validate: the checks of R101 in their order, the first failure raised; on success the frame. -/
def validate (c : Config) (e : EIR) : Except CmdError Frame := do
  let ssrc ← needRange e.ssrc 32 .ssrc
  let pt ← needRange e.pt 7 .pt
  let payload ← need e.payload .payload
  let seq ← needRange e.seq 16 .seq
  let ts ← needRange e.ts 32 .ts
  let csrcs ← readCsrcList e
  let pad ← range e.pad.value 8 .pad
  let ext ← readExt e
  let version ← range e.version.value 2 .version
  let f : Frame :=
    { version := version, marker := e.marker.value, pt := pt, seq := seq, ts := ts, ssrc := ssrc
      csrcs := csrcs, ext := ext, payload := payload, pad := pad }
  if f.total > c.obufCap then .error ⟨.outputCapacity, .none, 0⟩ else pure f

/-- Byte 0: `(version << 6) | (P << 5) | (X << 4) | CC` (R81, R103); P, X and CC are derived
(R102). -/
def Frame.byte0 (f : Frame) : Byte :=
  (f.version.setWidth 8 <<< 6) ||| ((BitVec.ofBool (f.pad != 0)).setWidth 8 <<< 5)
    ||| ((BitVec.ofBool f.ext.isSome).setWidth 8 <<< 4) ||| BitVec.ofNat 8 f.csrcs.length

/-- Byte 1: `(marker << 7) | PT` (R82, R103). -/
def Frame.byte1 (f : Frame) : Byte :=
  ((BitVec.ofBool f.marker).setWidth 8 <<< 7) ||| f.pt.setWidth 8

/-- The fixed header, 12 bytes (R103, R104). -/
def Frame.header (f : Frame) : Bytes :=
  [f.byte0, f.byte1] ++ be f.seq.toNat 2 ++ be f.ts.toNat 4 ++ be f.ssrc.toNat 4

/-- The CSRC list, 4 bytes an entry, in list order (R105). -/
def csrcBytes (l : List Word) : Bytes := l.flatMap fun c => be c.toNat 4

/-- Extension framing: profile id, word count, block, filler to the next word (R106). -/
def extBytes : Option ExtInput → Bytes
  | none => []
  | some x =>
    let w := ceildiv4 x.block.length
    be x.profile.toNat 2 ++ be w 2 ++ x.block ++ zeros (4 * w - x.block.length)

/-- The padding trailer: N-1 filler bytes and the count N; nothing when N = 0 (R108). -/
def padBytes (n : BitVec 8) : Bytes :=
  if n = 0 then [] else zeros (n.toNat - 1) ++ [n]

/-- The exact byte sequence of a frame, its sections in the order of R80. -/
def Frame.bytes (f : Frame) : Bytes :=
  f.header ++ csrcBytes f.csrcs ++ extBytes f.ext ++ f.payload ++ padBytes f.pad

/-- ENC (R100): EIR is consumed whether it succeeds or fails (R29). -/
def execEnc (s : State) : Host.Outcome State Fault Refusal :=
  match validate s.cfg s.eir with
  | .ok f => .next (completeOk 1 ((s.setObuf f.bytes).setEir EIR.reset))
  | .error e => .next (completeError 1 e s)

end Sys2Proof.Machine
end

