-- ==== Sys2Proof/Machine/Dispatch.lean ====
section
/-! DEFINITION. One arm per command of the opcode table. -/

namespace Sys2Proof.Machine

/-- The meaning of each command. -/
def exec (i : Instr) (s : State) : Host.Outcome State Fault Refusal :=
  match i with
  | .enc => Sys2Proof.Machine.execEnc s
  | .dec => Sys2Proof.Machine.execDec s
  | .getVersion => Sys2Proof.Machine.execGetVersion s
  | .getPadding => Sys2Proof.Machine.execGetPadding s
  | .getExtension => Sys2Proof.Machine.execGetExtension s
  | .getMarker => Sys2Proof.Machine.execGetMarker s
  | .getPayloadType => Sys2Proof.Machine.execGetPayloadType s
  | .getSequenceNumber => Sys2Proof.Machine.execGetSequenceNumber s
  | .getTimestamp => Sys2Proof.Machine.execGetTimestamp s
  | .getSsrc => Sys2Proof.Machine.execGetSsrc s
  | .getCsrcs => Sys2Proof.Machine.execGetCsrcs s
  | .getExtensionHeader => Sys2Proof.Machine.execGetExtensionHeader s
  | .getPayload => Sys2Proof.Machine.execGetPayload s

end Sys2Proof.Machine
end

