-- ==== Sys2Proof/Machine/RegMap.lean ====
section
/-! DEFINITION. The host register map (20_memory.md R57): numbers, access, kinds; which writes R58
admits; what a write sets and a read returns. -/

namespace Sys2Proof.Machine

/-- The number of each host register (R57). -/
def regNumber : Reg → BitVec 8
  | .cmd => 0x00
  | .status => 0x01
  | .eSsrc => 0x02
  | .ePt => 0x03
  | .ePayload => 0x04
  | .eSeq => 0x05
  | .eTs => 0x06
  | .eCsrcN => 0x07
  | .eMarker => 0x08
  | .ePad => 0x09
  | .eXpresent => 0x0A
  | .eXprofile => 0x0B
  | .eXblock => 0x0C
  | .eVersion => 0x0D
  | .eCsrc k => 0x10 + BitVec.ofNat 8 k.val
  | .ibuf => 0x20
  | .obuf => 0x21
  | .resTag => 0x30
  | .resUint => 0x31
  | .resCount => 0x32
  | .resProfile => 0x33
  | .resBytes => 0x34
  | .resWords k => 0x40 + BitVec.ofNat 8 k.val

/-- The register a number names; every other number names none (R57). -/
def regOfNumber (n : BitVec 8) : Option Reg :=
  match n.toNat with
  | 0x00 => some .cmd
  | 0x01 => some .status
  | 0x02 => some .eSsrc
  | 0x03 => some .ePt
  | 0x04 => some .ePayload
  | 0x05 => some .eSeq
  | 0x06 => some .eTs
  | 0x07 => some .eCsrcN
  | 0x08 => some .eMarker
  | 0x09 => some .ePad
  | 0x0A => some .eXpresent
  | 0x0B => some .eXprofile
  | 0x0C => some .eXblock
  | 0x0D => some .eVersion
  | 0x20 => some .ibuf
  | 0x21 => some .obuf
  | 0x30 => some .resTag
  | 0x31 => some .resUint
  | 0x32 => some .resCount
  | 0x33 => some .resProfile
  | 0x34 => some .resBytes
  | m =>
    if h : 0x10 ≤ m ∧ m < 0x1F then some (.eCsrc ⟨m - 0x10, by omega⟩)
    else if h : 0x40 ≤ m ∧ m < 0x4F then some (.resWords ⟨m - 0x40, by omega⟩)
    else none

/-- Host-writable: access W or RW (R57). -/
def regWritable : Reg → Bool
  | .cmd | .eSsrc | .ePt | .ePayload | .eSeq | .eTs | .eCsrcN | .eMarker | .ePad | .eXpresent
  | .eXprofile | .eXblock | .eVersion | .eCsrc _ | .ibuf => true
  | .status | .obuf | .resTag | .resUint | .resCount | .resProfile | .resBytes
  | .resWords _ => false

/-- Host-readable: access R or RW (R57). -/
def regReadable : Reg → Bool
  | .status | .ibuf | .obuf | .resTag | .resUint | .resCount | .resProfile | .resBytes
  | .resWords _ => true
  | .cmd | .eSsrc | .ePt | .ePayload | .eSeq | .eTs | .eCsrcN | .eMarker | .ePad | .eXpresent
  | .eXprofile | .eXblock | .eVersion | .eCsrc _ => false

/-- Why a byte-sequence write is not admitted: too long, or not a byte sequence (R58, log 7). -/
def refuseBytes (r : Reg) (cap : Nat) : HostValue → Option Refusal
  | .bytes b => if b.length ≤ cap then none else some (.tooLong r)
  | .int _ => some (.wrongKind r)

/-- Why a 1-bit write is not admitted: another value than 0 or 1 (R27, R58). -/
def refuseBit (r : Reg) : HostValue → Option Refusal
  | .int v => if v = 0 ∨ v = 1 then none else some (.notABit r)
  | .bytes _ => some (.wrongKind r)

/-- Why an integer write is not admitted: outside `lo <= v < hi`, the width of the register
(R26, log 7). -/
def refuseInt (r : Reg) (lo hi : Int) : HostValue → Option Refusal
  | .int v => if lo ≤ v ∧ v < hi then none else some (.outOfWidth r)
  | .bytes _ => some (.wrongKind r)

/-- Why the write of `v` to register `r` is refused; `none` when R58 admits it. -/
def refuseWrite (c : Config) (r : Reg) (v : HostValue) : Option Refusal :=
  match r with
  | .cmd => refuseInt r 0 (2 ^ 32) v
  | .ePayload => refuseBytes r c.payloadCap v
  | .eXblock => refuseBytes r c.xblockCap v
  | .ibuf => refuseBytes r c.ibufCap v
  | .eMarker | .eXpresent => refuseBit r v
  | .eSsrc | .ePt | .eSeq | .eTs | .eCsrcN | .ePad | .eXprofile | .eVersion | .eCsrc _ =>
    refuseInt r (-2 ^ 63) (2 ^ 63) v
  | .status | .obuf | .resTag | .resUint | .resCount | .resProfile | .resBytes | .resWords _ =>
    some (.readOnly r)

/-- The s64 value an admitted write presents. -/
def hostS64 : HostValue → S64
  | .int v => BitVec.ofInt 64 v
  | .bytes _ => 0

/-- The 1-bit value an admitted write presents. -/
def hostBit : HostValue → Bool
  | .int v => v == 1
  | .bytes _ => false

/-- The byte sequence an admitted write presents. -/
def hostBytes : HostValue → Bytes
  | .int _ => []
  | .bytes b => b

/-- The command word an admitted write to CMD presents. -/
def hostWord : HostValue → Word
  | .int v => BitVec.ofInt 32 v
  | .bytes _ => 0

/-- EIR after an admitted write: the register's value and its written bit (R29, R58). -/
def writeEir (r : Reg) (v : HostValue) (e : EIR) : EIR :=
  match r with
  | .eSsrc => { e with ssrc := some (hostS64 v) }
  | .ePt => { e with pt := some (hostS64 v) }
  | .ePayload => { e with payload := some (hostBytes v) }
  | .eSeq => { e with seq := some (hostS64 v) }
  | .eTs => { e with ts := some (hostS64 v) }
  | .eCsrcN => { e with csrcN := ⟨hostS64 v, true⟩ }
  | .eMarker => { e with marker := ⟨hostBit v, true⟩ }
  | .ePad => { e with pad := ⟨hostS64 v, true⟩ }
  | .eXpresent => { e with xpresent := ⟨hostBit v, true⟩ }
  | .eXprofile => { e with xprofile := some (hostS64 v) }
  | .eXblock => { e with xblock := some (hostBytes v) }
  | .eVersion => { e with version := ⟨hostS64 v, true⟩ }
  | .eCsrc k => { e with csrc := e.csrc.set k (some (hostS64 v)) }
  | .cmd | .status | .ibuf | .obuf | .resTag | .resUint | .resCount | .resProfile | .resBytes
  | .resWords _ => e

/-- The state after an admitted write to a register other than CMD (R58). -/
def writeReg (r : Reg) (v : HostValue) (s : State) : State :=
  match r with
  | .ibuf => s.setIbuf (hostBytes v)
  | .eSsrc | .ePt | .ePayload | .eSeq | .eTs | .eCsrcN | .eMarker | .ePad | .eXpresent
  | .eXprofile | .eXblock | .eVersion | .eCsrc _ => s.setEir (writeEir r v s.eir)
  | .cmd | .status | .obuf | .resTag | .resUint | .resCount | .resProfile | .resBytes
  | .resWords _ => s

/-- RES.TAG values (R38). -/
def tagVal : ResTag → BitVec 3
  | .empty => 0
  | .uint => 1
  | .bool => 2
  | .words => 3
  | .bytes => 4
  | .extAbsent => 5
  | .extPresent => 6

/-- The value a host read of `r` returns; `none` for a write-only register (R58). Registers of n
bits are returned as unsigned integers (log 15). -/
def readReg (r : Reg) (s : State) : Option HostValue :=
  match r with
  | .status => some (.int s.status.toNat)
  | .ibuf => some (.bytes s.ibuf)
  | .obuf => some (.bytes s.obuf)
  | .resTag => some (.int (tagVal s.res.tag).toNat)
  | .resUint => some (.int s.res.uint.toNat)
  | .resCount => some (.int s.res.count.toNat)
  | .resProfile => some (.int s.res.profile.toNat)
  | .resBytes => some (.bytes s.res.bytes)
  | .resWords k => some (.int (s.res.words[k]).toNat)
  | .cmd | .eSsrc | .ePt | .ePayload | .eSeq | .eTs | .eCsrcN | .eMarker | .ePad | .eXpresent
  | .eXprofile | .eXblock | .eVersion | .eCsrc _ => none

end Sys2Proof.Machine
end

