-- ==== Sys2Proof/Machine/HostPort.lean ====
section
/-! DEFINITION. The host port: issuing a command word (10_state.md R22, 30_encoding.md R75), host
writes and reads (20_memory.md R58), reset (70_reset_and_hazards.md R220), and the one action a
step performs. -/

namespace Sys2Proof.Machine

/-- The error a command word raises that selects no row of the opcode table (R72, R74, R75). -/
def rejectError : CmdReject → CmdError
  | .illegalOp => ⟨.illegalOp, .none, 0⟩
  | .reservedBits => ⟨.reservedBits, .none, 0⟩
  | .unknownField _ => ⟨.unknownField, .none, 0⟩

/-- A write of the word `w` to CMD issues one command: the decoded one runs, and a word that
selects none completes with its error; STATUS.OP is bits 3:0 of the word (R22, R75, R194). -/
def issue (w : Word) (s : State) : Host.Outcome State Fault Refusal :=
  match decode w with
  | .ok i => exec i s
  | .error e => .next (completeError (w.extractLsb' 0 4) (rejectError e) s)

/-- A host write of `v` to register number `n` (R58). -/
def hostWrite (n : BitVec 8) (v : HostValue) (s : State) : Host.Outcome State Fault Refusal :=
  match regOfNumber n with
  | none => .refused (.noRegister n)
  | some r =>
    match refuseWrite s.cfg r v with
    | some why => .refused why
    | none => if r = .cmd then issue (hostWord v) s else .next (writeReg r v s)

/-- A host read of register number `n`: the value is returned and no register changes (R56, R58). -/
def hostRead (n : BitVec 8) (s : State) : Host.Outcome State Fault Refusal :=
  match regOfNumber n with
  | none => .refused (.noRegister n)
  | some r =>
    match readReg r s with
    | none => .refused (.writeOnly r)
    | some v => .next (s.addReturned v)

/-- Reset: every register takes its reset value (R220). The capacities stay (R20), and so does the
host's side of the interface (log 11). -/
def resetEvent (s : State) : State :=
  { State.resetWith s.cfg with pending := s.pending, returned := s.returned }

/-- What one host action does (R221). -/
def perform (a : HostAction) (s : State) : Host.Outcome State Fault Refusal :=
  match a with
  | .write n v => hostWrite n v s
  | .read n => hostRead n s
  | .reset => .next (resetEvent s)

/-- The next action of the host in its issue order is performed; with none pending nothing changes
(R59, R221; log 1). -/
def performNext (s : State) : Host.Outcome State Fault Refusal :=
  match s.pending with
  | [] => .next s
  | a :: rest => perform a (s.setPending rest)

/-- The host issues the command word `w` before everything it has pending (log 2). -/
def issueFirst (w : Nat) (s : State) : State :=
  s.setPending (.write (regNumber .cmd) (.int w) :: s.pending)

end Sys2Proof.Machine
end

