-- ==== Sys2Proof/Machine/Step.lean ====
section
/-! DEFINITION. One step: RTPC performs the host's next action (20_memory.md R59). -/

namespace Sys2Proof.Machine

/-- One step of the machine. -/
def step (s : State) : Host.Outcome State Fault Refusal :=
  performNext s

/-- `s` with the opcode-table word of `nbits` bits and value `w` as the host's next command, so that
the next step issues it (log 2). -/
def State.withFetchWord (s : State) (nbits w : Nat) : State :=
  issueFirst (w % 2 ^ nbits) s

end Sys2Proof.Machine
end

