-- ==== Sys2Proof/Machine/Instances.lean ====
section
/-! DEFINITION. Several instances (20_memory.md R63): each has a state of its own, and one action of
the one total order the hosts put their accesses in goes to one instance (log 12). -/

namespace Sys2Proof.Machine

/-- The action `a` is performed by instance `k`; every other instance keeps its state (R63). -/
def performAt (k : Nat) (a : HostAction) (sys : List State) :
    Host.Outcome (List State) Fault Refusal :=
  match sys[k]? with
  | none => .next sys
  | some s =>
    match perform a s with
    | .next t => .next (sys.set k t)
    | .fault r => .fault r
    | .refused r => .refused r

end Sys2Proof.Machine
end

