-- ==== Sys2Proof/Machine/Program.lean ====
section
/-! DEFINITION. Host programs (30_encoding.md R76, R77): what each assembler line issues, and the
pseudo-instruction GET f1, ..., fn, whose continuation the host decides from STATUS. -/

namespace Sys2Proof.Machine

/-- The host action of an assembler line (R76). -/
def asmAction : AsmLine → HostAction
  | .wr r v => .write (regNumber r) v
  | .rd r => .read (regNumber r)
  | .enc => .write (regNumber .cmd) (.int 0x00000001)
  | .dec => .write (regNumber .cmd) (.int 0x00000002)
  | .get f => .write (regNumber .cmd) (.int (0x00000003 + 0x10 * f.instr.fid.toNat))
  | .word w => .write (regNumber .cmd) (.int w.toNat)

/-- The host appends a program to what it has pending (R59, R76). -/
def loadProgram (p : List AsmLine) (s : State) : State :=
  s.setPending (s.pending ++ p.map asmAction)

/-- What the host has after `GET f1, ..., fn`: the RES values read after each GET, in order, or the
STATUS of the GET that failed and no list (R77). -/
inductive GetListResult where
  | values (l : List Res)
  | failed (status : Word)
  deriving DecidableEq, Repr

/-- The list with the value of an earlier GET in front; a failure stays a failure. -/
def GetListResult.push (v : Res) : GetListResult → GetListResult
  | .values l => .values (v :: l)
  | .failed st => .failed st

/-- `GET f1, ..., fn` run from `s`: each GET is issued and STATUS read, and the expansion stops at
the first error (R77, log 13). -/
def getList (fs : List FieldId) (s : State) :
    Host.Outcome (State × GetListResult) Fault Refusal :=
  match fs with
  | [] => .next (s, .values [])
  | f :: fs =>
    match issue (encode f.instr) s with
    | .next t =>
      if stOk t.status then
        match getList fs t with
        | .next (u, r) => .next (u, r.push t.res)
        | .fault r => .fault r
        | .refused r => .refused r
      else .next (t, .failed t.status)
    | .fault r => .fault r
    | .refused r => .refused r

end Sys2Proof.Machine
end

