-- ==== Sys2Proof/Safety.lean ====
section
/-! DEFINITION. The terms claims use: what every reachable state satisfies, when an input is in its
domain, and the checks of ENC and DEC as lists in the spec's order, written apart from the meanings
that perform them. -/

namespace Sys2Proof.Machine

/-- Every byte-sequence register holds at most its capacity (R31), and OBUF_CAP >= 12 (R8). -/
def State.fits (s : State) : Prop :=
  12 ≤ s.cfg.obufCap
    ∧ (∀ b ∈ s.eir.payload, b.length ≤ s.cfg.payloadCap)
    ∧ (∀ b ∈ s.eir.xblock, b.length ≤ s.cfg.xblockCap)
    ∧ s.ibuf.length ≤ s.cfg.ibufCap
    ∧ s.obuf.length ≤ s.cfg.obufCap
    ∧ s.dfr.xblock.length ≤ s.cfg.ibufCap
    ∧ s.dfr.payload.length ≤ s.cfg.ibufCap
    ∧ s.res.bytes.length ≤ s.cfg.ibufCap

/-- The inputs that are written at reset stay written: no rule clears their written bit (R25, R29). -/
def EIR.defaultsWritten (e : EIR) : Prop :=
  e.csrcN.written = true ∧ e.marker.written = true ∧ e.pad.written = true
    ∧ e.xpresent.written = true ∧ e.version.written = true

/-- What R34 and R35 say of every DFR value: no frame means the reset value, unused entries and an
absent extension are 0 or [], and the block is 4*W bytes. -/
def DFR.canonical (d : DFR) : Prop :=
  (d.valid = false → d = DFR.reset)
    ∧ (∀ k : Fin 15, d.cc.toNat ≤ k.val → d.csrc[k] = 0)
    ∧ (d.x = false → d.xprofile = 0 ∧ d.xlen = 0 ∧ d.xblock = [])
    ∧ d.xblock.length = 4 * d.xlen.toNat

/-- What R37 says of every RES value: a field its tag does not use is 0 or []. -/
def Res.canonical (r : Res) : Prop :=
  (r.tag ≠ .uint → r.tag ≠ .bool → r.uint = 0)
    ∧ (r.tag = .bool → r.uint.toNat ≤ 1)
    ∧ (r.tag ≠ .words → r.count = 0)
    ∧ (∀ k : Fin 15, r.count.toNat ≤ k.val → r.words[k] = 0)
    ∧ (r.tag ≠ .extPresent → r.profile = 0)
    ∧ (r.tag ≠ .bytes → r.tag ≠ .extPresent → r.bytes = [])

/-- The (CLASS, CODE) pairs of R191. -/
def errorPairs : List (BitVec 3 × BitVec 8) :=
  [(1, 0x01), (1, 0x02), (1, 0x03), (1, 0x04), (1, 0x05), (2, 0x10), (2, 0x20), (2, 0x30),
    (2, 0x40), (3, 0x50), (3, 0x51), (4, 0x60), (4, 0x61)]

/-- What R23 and R191 to R194 say of every STATUS value: the reset value, a success report, or an
error report with a code of R191, FIELD and INDEX only for VALIDATION, FIELD never 7 or above 11
(R192), INDEX at most 14, and bits 31:24 zero. -/
def statusLegal (st : Word) : Prop :=
  st = 0
    ∨ (stOk st = true ∧ stClass st = 0 ∧ stCode st = 0 ∧ stField st = 0 ∧ stIndex st = 0
        ∧ stReserved st = 0)
    ∨ (stOk st = false ∧ (stClass st, stCode st) ∈ errorPairs
        ∧ (stClass st ≠ 1 → stField st = 0 ∧ stIndex st = 0)
        ∧ (stField st).toNat ≤ 11 ∧ stField st ≠ 7 ∧ (stIndex st).toNat ≤ 14
        ∧ stReserved st = 0)

/-- The invariant of the machine. -/
def State.inv (s : State) : Prop :=
  s.fits ∧ s.eir.defaultsWritten ∧ s.dfr.canonical ∧ s.res.canonical ∧ statusLegal s.status

/-- The register holds a value v with `0 <= v < 2^w` (R101). -/
def inDomain (r : Option S64) (w v : Nat) : Prop :=
  ∃ x : S64, r = some x ∧ x.toInt = (v : Int) ∧ v < 2 ^ w

/-- EIR holds the inputs of one frame, each inside the domain R25 gives it, as plain numbers:
`csrcs` is the CSRC list, `ext` the profile and block when E_XPRESENT = 1. -/
structure EncInputs (e : EIR) (ssrc pt seq ts pad version : Nat) (csrcs : List Nat)
    (ext : Option (Nat × Bytes)) (payload : Bytes) : Prop where
  ssrc : inDomain e.ssrc 32 ssrc
  pt : inDomain e.pt 7 pt
  payload : e.payload = some payload
  seq : inDomain e.seq 16 seq
  ts : inDomain e.ts 32 ts
  csrcN : e.csrcN.value.toInt = (csrcs.length : Int) ∧ csrcs.length ≤ 15
  csrcs : ∀ k (h : k < csrcs.length), inDomain (e.csrc[k]?).join 32 csrcs[k]
  pad : e.pad.value.toInt = (pad : Int) ∧ pad ≤ 255
  absent : ext = none → e.xpresent.value = false
  present : ∀ p b, ext = some (p, b) → e.xpresent.value = true ∧ inDomain e.xprofile 16 p
    ∧ e.xblock = some b ∧ (b.length + 3) / 4 ≤ 65535
  version : e.version.value.toInt = (version : Int) ∧ version ≤ 3

/-- The extension block's word count W, rounded up (R102, R106). -/
def extWords : Option (Nat × Bytes) → Nat
  | none => 0
  | some (_, b) => (b.length + 3) / 4

/-- The frame length ENC compares with OBUF_CAP (R101, R109). -/
def encTotal (pad : Nat) (csrcs : List Nat) (ext : Option (Nat × Bytes)) (payload : Bytes) : Nat :=
  12 + 4 * csrcs.length + (match ext with | none => 0 | some _ => 4 + 4 * extWords ext)
    + payload.length + pad

/-- Byte i of the n-byte big-endian value v, as arithmetic (R13). -/
def beByte (v n i : Nat) : Byte := BitVec.ofNat 8 (v / 256 ^ (n - 1 - i) % 256)

/-- The byte sequence of the pseudocode of R100, as arithmetic on the input numbers. -/
def encBytes (ssrc pt seq ts pad version : Nat) (marker : Bool) (csrcs : List Nat)
    (ext : Option (Nat × Bytes)) (payload : Bytes) : Bytes :=
  [ BitVec.ofNat 8 (64 * version + 32 * (if pad = 0 then 0 else 1)
      + 16 * (if ext.isSome then 1 else 0) + csrcs.length),
    BitVec.ofNat 8 (128 * (if marker then 1 else 0) + pt),
    beByte seq 2 0, beByte seq 2 1,
    beByte ts 4 0, beByte ts 4 1, beByte ts 4 2, beByte ts 4 3,
    beByte ssrc 4 0, beByte ssrc 4 1, beByte ssrc 4 2, beByte ssrc 4 3 ]
    ++ (csrcs.map fun c => [beByte c 4 0, beByte c 4 1, beByte c 4 2, beByte c 4 3]).flatten
    ++ (match ext with
        | none => []
        | some (p, b) =>
          [beByte p 2 0, beByte p 2 1, beByte (extWords ext) 2 0, beByte (extWords ext) 2 1] ++ b
            ++ List.replicate (4 * extWords ext - b.length) 0)
    ++ payload
    ++ (if pad = 0 then [] else List.replicate (pad - 1) 0 ++ [BitVec.ofNat 8 pad])

/-- A scalar input's two checks (R101): MISSING, then RANGE. `lo <= v <= hi` is its domain. -/
def scalarChecks (r : Option S64) (w : Nat) (f : InputField) (k : Nat) : List (Bool × CmdError) :=
  [(r.isSome, ⟨.missing, f, BitVec.ofNat 4 k⟩),
   (r.any fun v => decide (0 ≤ v.toInt ∧ v.toInt < 2 ^ w), ⟨.range, f, BitVec.ofNat 4 k⟩)]

/-- The checks of R101, in the order of R197, each with the error it raises when it does not hold.
A check after a failing one is never consulted. -/
def encChecks (c : Config) (e : EIR) : List (Bool × CmdError) :=
  scalarChecks e.ssrc 32 .ssrc 0
    ++ scalarChecks e.pt 7 .pt 0
    ++ [(e.payload.isSome, ⟨.missing, .payload, 0⟩)]
    ++ scalarChecks e.seq 16 .seq 0
    ++ scalarChecks e.ts 32 .ts 0
    ++ [(decide (0 ≤ e.csrcN.value.toInt ∧ e.csrcN.value.toInt ≤ 15), ⟨.csrcCount, .csrcs, 0⟩)]
    ++ ((List.range e.csrcN.value.toInt.toNat).flatMap fun k =>
          scalarChecks (e.csrc[k]?).join 32 .csrcs k)
    ++ [(decide (0 ≤ e.pad.value.toInt ∧ e.pad.value.toInt ≤ 255), ⟨.range, .pad, 0⟩)]
    ++ (if e.xpresent.value then
          scalarChecks e.xprofile 16 .xprofile 0
            ++ [(e.xblock.isSome, ⟨.missing, .xblock, 0⟩),
                (decide ((((e.xblock.getD []).length) + 3) / 4 ≤ 65535), ⟨.extLength, .xblock, 0⟩)]
        else [])
    ++ [(decide (0 ≤ e.version.value.toInt ∧ e.version.value.toInt ≤ 3), ⟨.range, .version, 0⟩),
        (decide (12 + 4 * e.csrcN.value.toInt.toNat
            + (if e.xpresent.value then 4 + 4 * (((e.xblock.getD []).length + 3) / 4) else 0)
            + (e.payload.getD []).length + e.pad.value.toInt.toNat ≤ c.obufCap),
          ⟨.outputCapacity, .none, 0⟩)]

/-- The first check that does not hold. -/
def firstFailure : List (Bool × CmdError) → Option CmdError
  | [] => none
  | (true, _) :: rest => firstFailure rest
  | (false, e) :: _ => some e

/-! The fields of the byte sequence in IBUF, as arithmetic on its bytes (R80 to R90). -/

/-- Byte i as a number, 0 past the end. -/
def byteNat (s : Bytes) (i : Nat) : Nat := (s.getD i 0).toNat

/-- The big-endian number of 2 bytes at `i` (R51). -/
def be16At (s : Bytes) (i : Nat) : Nat := 256 * byteNat s i + byteNat s (i + 1)

/-- The big-endian number of 4 bytes at `i` (R51). -/
def be32At (s : Bytes) (i : Nat) : Nat := 65536 * be16At s i + be16At s (i + 2)

/-- CC, bits 3:0 of byte 0 (R81). -/
def frameCc (s : Bytes) : Nat := byteNat s 0 % 16

/-- X, bit 4 of byte 0 (R81). -/
def frameX (s : Bytes) : Nat := byteNat s 0 / 16 % 2

/-- P, bit 5 of byte 0 (R81). -/
def frameP (s : Bytes) : Nat := byteNat s 0 / 32 % 2

/-- W, the word count at offset 14 + 4*CC when X = 1 (R85, R90). -/
def frameW (s : Bytes) : Nat := if frameX s = 1 then be16At s (14 + 4 * frameCc s) else 0

/-- The header length H (R89). -/
def frameH (s : Bytes) : Nat :=
  12 + 4 * frameCc s + (if frameX s = 1 then 4 + 4 * frameW s else 0)

/-- N, the last byte (R88, R136). -/
def frameN (s : Bytes) : Nat := byteNat s (s.length - 1)

/-- The checks of DEC in section order (R198), each with the error it raises when it does not
hold. -/
def decChecks (s : Bytes) : List (Bool × CmdError) :=
  [(decide (12 ≤ s.length), ⟨.shortHeader, .none, 0⟩),
   (decide (12 + 4 * frameCc s ≤ s.length), ⟨.shortCsrc, .none, 0⟩),
   (decide (frameX s = 1 → 16 + 4 * frameCc s ≤ s.length), ⟨.shortExtension, .none, 0⟩),
   (decide (frameH s ≤ s.length), ⟨.shortExtension, .none, 0⟩),
   (decide (frameP s = 1 → 1 ≤ frameN s ∧ frameN s ≤ s.length - frameH s),
     ⟨.badPadding, .none, 0⟩)]

/-- `d` is the decoded frame of the byte sequence `s`: every field as R130 gives it. -/
structure DecodedFrom (s : Bytes) (d : DFR) : Prop where
  valid : d.valid = true
  version : d.version.toNat = byteNat s 0 / 64
  p : d.p = decide (frameP s = 1)
  x : d.x = decide (frameX s = 1)
  cc : d.cc.toNat = frameCc s
  m : d.m = decide (byteNat s 1 / 128 = 1)
  pt : d.pt.toNat = byteNat s 1 % 128
  seq : d.seq.toNat = be16At s 2
  ts : d.ts.toNat = be32At s 4
  ssrc : d.ssrc.toNat = be32At s 8
  csrc : ∀ k : Fin 15, (d.csrc[k]).toNat
    = if k.val < frameCc s then be32At s (12 + 4 * k.val) else 0
  xprofile : d.xprofile.toNat = if frameX s = 1 then be16At s (12 + 4 * frameCc s) else 0
  xlen : d.xlen.toNat = frameW s
  xblock : d.xblock = (s.drop (16 + 4 * frameCc s)).take (4 * frameW s)
  payload : d.payload = (s.drop (frameH s)).take
    (s.length - frameH s - (if frameP s = 1 then frameN s else 0))

/-- The STATUS word of R194, as arithmetic. -/
def errorReport (op : Nat) (e : CmdError) : Word :=
  BitVec.ofNat 32 (op * 2 ^ 20 + e.index.toNat * 2 ^ 16 + e.field.val.toNat * 2 ^ 12
    + e.code.val.toNat * 2 ^ 4 + e.code.cls.val.toNat * 2)

/-- The numbers of the s64 registers (R57). -/
def isS64Number (n : Nat) : Prop :=
  n = 0x02 ∨ n = 0x03 ∨ n = 0x05 ∨ n = 0x06 ∨ n = 0x07 ∨ n = 0x09 ∨ n = 0x0B ∨ n = 0x0D
    ∨ (0x10 ≤ n ∧ n ≤ 0x1E)

/-- The host writes that have a step (R57, R58; integer widths by R22, R26 and log 7). -/
def writeAdmitted (c : Config) (n : Nat) : HostValue → Prop
  | .int v =>
    (n = 0x00 ∧ 0 ≤ v ∧ v < 2 ^ 32)
      ∨ (isS64Number n ∧ -2 ^ 63 ≤ v ∧ v < 2 ^ 63)
      ∨ ((n = 0x08 ∨ n = 0x0A) ∧ (v = 0 ∨ v = 1))
  | .bytes b =>
    (n = 0x04 ∧ b.length ≤ c.payloadCap)
      ∨ (n = 0x0C ∧ b.length ≤ c.xblockCap)
      ∨ (n = 0x20 ∧ b.length ≤ c.ibufCap)

/-- The numbers of the host-readable registers (R57). -/
def isReadableNumber (n : Nat) : Prop :=
  n = 0x01 ∨ n = 0x20 ∨ n = 0x21 ∨ (0x30 ≤ n ∧ n ≤ 0x34) ∨ (0x40 ≤ n ∧ n ≤ 0x4E)

/-- The GETs (R73). -/
def isGet (i : Instr) : Bool :=
  i != .enc && i != .dec

end Sys2Proof.Machine
end

