-- ==== Sys2Proof/Certificates/Slice0/Obligations.lean ====
section
/-! DEFINITION. The statements for the provers. Each says which rule of the spec it formalises;
OBLIGATIONS.json lists them. `Host.Outcome.next t` is written out in every conclusion: no command
of RTPC ends in a fault or a refusal. -/

open Sys2Proof Sys2Proof.Machine

/-! Command words. -/

/-- The 13 words of the opcode table, written out from R70, R71 and R73. -/
def Obligations.TableWordsDecodeToTheirCommands : Prop :=
  decode 0x00000001 = .ok .enc ∧ decode 0x00000002 = .ok .dec
    ∧ decode 0x00000003 = .ok .getVersion ∧ decode 0x00000013 = .ok .getPadding
    ∧ decode 0x00000023 = .ok .getExtension ∧ decode 0x00000033 = .ok .getMarker
    ∧ decode 0x00000043 = .ok .getPayloadType ∧ decode 0x00000053 = .ok .getSequenceNumber
    ∧ decode 0x00000063 = .ok .getTimestamp ∧ decode 0x00000073 = .ok .getSsrc
    ∧ decode 0x00000083 = .ok .getCsrcs ∧ decode 0x00000093 = .ok .getExtensionHeader
    ∧ decode 0x000000A3 = .ok .getPayload

/-- Decode and encode agree in both directions: a word decodes to a command of the opcode table
exactly when it is that command's encoding. That the words of a GET with FID 11 to 15 decode to no
command of the table is the model's reading (log 10). -/
def Obligations.DecodeAndEncodeAgree : Prop :=
  ∀ (w : Word) (i : Instr), decode w = .ok i ↔ w = encode i

/-- DecodeCmd of R75, over the three fields of the word as numbers. The last clause is the model's
reading (log 10): R75 has a word with OP 3, RSVD 0 and FID 11 to 15 select GET(fid), which R160 then
fails; here the decoder names that failure, because the word has no row in the opcode table (R74).
What issuing such a word does is `UnknownFieldReportsAndClearsResult`. -/
def Obligations.DecodeCmdOfEveryWord : Prop :=
  ∀ w : Word,
    let op := w.toNat % 16
    let fid := w.toNat / 16 % 16
    let rsvd := w.toNat / 256
    (op ≠ 1 → op ≠ 2 → op ≠ 3 → decode w = .error .illegalOp)
      ∧ (op = 1 ∨ op = 2 ∨ op = 3 → rsvd ≠ 0 → decode w = .error .reservedBits)
      ∧ (op = 1 ∨ op = 2 → rsvd = 0 → fid ≠ 0 → decode w = .error .reservedBits)
      ∧ (op = 1 → rsvd = 0 → fid = 0 → decode w = .ok .enc)
      ∧ (op = 2 → rsvd = 0 → fid = 0 → decode w = .ok .dec)
      ∧ (op = 3 → rsvd = 0 → fid ≤ 10 →
          some (decode w) = ([.getVersion, .getPadding, .getExtension, .getMarker, .getPayloadType,
            .getSequenceNumber, .getTimestamp, .getSsrc, .getCsrcs, .getExtensionHeader,
            .getPayload] : List Instr)[fid]?.map .ok)
      ∧ (op = 3 → rsvd = 0 → 11 ≤ fid → decode w = .error (.unknownField (BitVec.ofNat 4 fid)))

/-- The decoder gives a command exactly for the words of an opcode-table row, those whose fields pass
`CmdFields.wf`. That a GET with FID 11 to 15 is not among them is the model's reading (log 10): R74
calls it a legal command word that always fails and has no row, and R75 has it select GET. -/
def Obligations.DecodeAcceptsExactlyWellFormedFields : Prop :=
  ∀ w : Word, (∃ i, decode w = .ok i) ↔ (CmdFields.ofWord w).wf = true

/-- R71 and R72: an illegal OP, reserved bits, or a nonzero FID with ENC or DEC is a COMMAND error.
It writes STATUS with its code and bits 3:0 of the word, and changes nothing else. -/
def Obligations.IllegalWordsWriteOnlyStatus : Prop :=
  ∀ (s : State) (w : Word),
    let op := w.toNat % 16
    let fid := w.toNat / 16 % 16
    let rsvd := w.toNat / 256
    (op ≠ 1 → op ≠ 2 → op ≠ 3 →
        issue w s = .next { s with status := BitVec.ofNat 32 (op * 2 ^ 20 + 0x608) })
      ∧ (op = 1 ∨ op = 2 ∨ op = 3 → rsvd ≠ 0 →
        issue w s = .next { s with status := BitVec.ofNat 32 (op * 2 ^ 20 + 0x618) })
      ∧ (op = 1 ∨ op = 2 → fid ≠ 0 →
        issue w s = .next { s with status := BitVec.ofNat 32 (op * 2 ^ 20 + 0x618) })

/-- R74: a GET whose FID is 11 to 15 reports UNKNOWN_FIELD, whether or not there is a frame, and
RES returns to its reset value. -/
def Obligations.UnknownFieldReportsAndClearsResult : Prop :=
  ∀ (s : State) (fid : Nat), 11 ≤ fid → fid ≤ 15 →
    issue (BitVec.ofNat 32 (0x03 + 0x10 * fid)) s
      = .next { s with status := 0x00300506, res := Res.reset }

/-! The step. -/

/-- A step runs the decoded command: a write of a command word at the head of the host's actions is
removed and the command runs. The list of actions is the model's (log 1). -/
def Obligations.StepRunsTheIssuedCommand : Prop :=
  ∀ (s : State) (w : Word) (i : Instr) (rest : List HostAction),
    s.pending = .write 0x00 (.int w.toNat) :: rest → decode w = .ok i →
      step s = exec i { s with pending := rest }

/-- The opcode-table word handed to the machine is the next command it runs (the model's convention,
log 2). -/
def Obligations.FetchedWordIsTheNextCommand : Prop :=
  ∀ (s : State) (i : Instr),
    decodeTableWord 32 (encode i).toNat = some i
      ∧ step (s.withFetchWord 32 (encode i).toNat) = exec i s

/-- Actions are performed one at a time in the host's order, and with none pending nothing changes
(the list and the idle step are the model's, log 1). -/
def Obligations.StepPerformsOldestActionOrIdles : Prop :=
  ∀ s : State,
    (s.pending = [] → step s = .next s)
      ∧ ∀ a rest, s.pending = a :: rest → step s = perform a { s with pending := rest }

/-! ENC. -/

/-- R102 to R108 and R110: on inputs inside their domains whose frame fits OBUF, ENC completes, OBUF
holds exactly the byte sequence of R100's pseudocode, EIR is consumed, and nothing else changes. -/
def Obligations.EncWritesTheExactFrame : Prop :=
  ∀ (s : State) (ssrc pt seq ts pad version : Nat) (csrcs : List Nat) (ext : Option (Nat × Bytes))
    (payload : Bytes),
    EncInputs s.eir ssrc pt seq ts pad version csrcs ext payload →
    encTotal pad csrcs ext payload ≤ s.cfg.obufCap →
      exec .enc s = .next
        { s with
          status := 0x00100001
          obuf := encBytes ssrc pt seq ts pad version s.eir.marker.value csrcs ext payload
          eir := EIR.reset }

/-- R101: ENC raises the first check that fails, in that rule's order, and succeeds exactly when all
hold. -/
def Obligations.EncRaisesTheFirstFailingCheck : Prop :=
  ∀ s : State,
    (∀ e, firstFailure (encChecks s.cfg s.eir) = some e →
        exec .enc s = .next { s with status := errorReport 1 e, obuf := [], eir := EIR.reset })
      ∧ (firstFailure (encChecks s.cfg s.eir) = none →
        ∃ t, exec .enc s = .next t ∧ t.status = 0x00100001)

/-- R109: a successful ENC had every input in its domain, and OBUF is the frame's byte sequence with
nothing before or after it, of exactly the length the fields give and at most OBUF_CAP. -/
def Obligations.EncOutputLengthIsExact : Prop :=
  ∀ s t : State, exec .enc s = .next t → stOk t.status = true →
    ∃ ssrc pt seq ts pad version csrcs ext payload,
      EncInputs s.eir ssrc pt seq ts pad version csrcs ext payload
        ∧ t.obuf = encBytes ssrc pt seq ts pad version s.eir.marker.value csrcs ext payload
        ∧ t.obuf.length = encTotal pad csrcs ext payload
        ∧ t.obuf.length ≤ s.cfg.obufCap

/-- Success or failure, ENC returns every input register and written bit to its reset value and
writes no IBUF, DFR, RES (R29, R110); the capacities and the host's side stay. -/
def Obligations.EncConsumesInputsAndKeepsTheRest : Prop :=
  ∀ s : State, ∃ t, exec .enc s = .next t ∧ t.eir = EIR.reset ∧ t.cfg = s.cfg ∧ t.ibuf = s.ibuf
    ∧ t.dfr = s.dfr ∧ t.res = s.res ∧ t.pending = s.pending ∧ t.returned = s.returned

/-- R28 and R101: CSRC entries at index E_CSRC_N and above, every entry when E_CSRC_N is outside
0..15, and the profile and block when E_XPRESENT = 0, have no influence on ENC. -/
def Obligations.EncIgnoresUnusedInputs : Prop :=
  ∀ (s : State) (csrc : Vector (Option S64) 15) (xprofile : Option S64) (xblock : Option Bytes),
    (∀ k : Fin 15, (k.val : Int) < s.eir.csrcN.value.toInt → s.eir.csrcN.value.toInt ≤ 15 →
      csrc[k] = s.eir.csrc[k]) →
    (s.eir.xpresent.value = true → xprofile = s.eir.xprofile ∧ xblock = s.eir.xblock) →
      exec .enc { s with eir := { s.eir with csrc := csrc, xprofile := xprofile, xblock := xblock } }
        = exec .enc s

/-- R223: an ENC issued straight after another finds its inputs consumed: MISSING, SSRC, and OBUF is
empty. -/
def Obligations.SecondEncFindsNoInputs : Prop :=
  ∀ s t : State, exec .enc s = .next t →
    exec .enc t = .next { t with status := 0x00101042, obuf := [], eir := EIR.reset }

/-! DEC. -/

/-- R132 to R136 and R138: when every section is long enough and the padding count is in range, DEC
completes, DFR is the frame of IBUF in every field, and nothing else changes. -/
def Obligations.DecUnpacksEveryField : Prop :=
  ∀ s : State, firstFailure (decChecks s.ibuf) = none →
    ∃ d, DecodedFrom s.ibuf d ∧ exec .dec s = .next { s with status := 0x00200001, dfr := d }

/-- R198: otherwise DEC reports the first malformed section in frame order and DFR returns to its
reset value; nothing else changes. -/
def Obligations.DecReportsTheFirstMalformedSection : Prop :=
  ∀ (s : State) (e : CmdError), firstFailure (decChecks s.ibuf) = some e →
    exec .dec s = .next { s with status := errorReport 2 e, dfr := DFR.reset }

/-- R142: the DFR and STATUS a DEC writes are a function of IBUF alone. -/
def Obligations.DecDependsOnInputAlone : Prop :=
  ∀ s₁ s₂ : State, s₁.ibuf = s₂.ibuf →
    ∃ t₁ t₂, exec .dec s₁ = .next t₁ ∧ exec .dec s₂ = .next t₂
      ∧ t₁.dfr = t₂.dfr ∧ t₁.status = t₂.status

/-- R139: the filler bytes of the padding trailer have no influence on DEC: a frame that decodes
with P = 1 decodes to the same DFR with any other filler. -/
def Obligations.DecIgnoresPaddingFiller : Prop :=
  ∀ (s t : State) (front fill fill' : Bytes) (n : Byte),
    s.ibuf = front ++ fill ++ [n] → fill.length + 1 = n.toNat → fill'.length = fill.length →
    exec .dec s = .next t → stOk t.status = true → t.dfr.p = true →
      exec .dec { s with ibuf := front ++ fill' ++ [n] }
        = .next { t with ibuf := front ++ fill' ++ [n] }

/-- R141, the round-trip law: the frame ENC wrote, looped back through IBUF, decodes to the fields
ENC was given; an unaligned block comes back with its filler. Every DFR field is named, and the
padding count enters only through P. -/
def Obligations.DecodeOfEncodeReturnsEveryField : Prop :=
  ∀ (s : State) (ssrc pt seq ts pad version : Nat) (csrcs : List Nat) (ext : Option (Nat × Bytes))
    (payload : Bytes),
    EncInputs s.eir ssrc pt seq ts pad version csrcs ext payload →
    encTotal pad csrcs ext payload ≤ s.cfg.obufCap →
    encTotal pad csrcs ext payload ≤ s.cfg.ibufCap →
      ∃ t u v, exec .enc s = .next t ∧ hostWrite 0x20 (.bytes t.obuf) t = .next u
        ∧ exec .dec u = .next v
        ∧ v.status = 0x00200001 ∧ v.dfr.valid = true
        ∧ v.dfr.version.toNat = version ∧ v.dfr.p = decide (pad ≠ 0) ∧ v.dfr.x = ext.isSome
        ∧ v.dfr.m = s.eir.marker.value ∧ v.dfr.pt.toNat = pt ∧ v.dfr.seq.toNat = seq
        ∧ v.dfr.ts.toNat = ts ∧ v.dfr.ssrc.toNat = ssrc ∧ v.dfr.cc.toNat = csrcs.length
        ∧ (∀ k : Fin 15, (v.dfr.csrc[k]).toNat = csrcs.getD k.val 0)
        ∧ (∀ p b, ext = some (p, b) → v.dfr.xprofile.toNat = p
            ∧ v.dfr.xblock = b ++ List.replicate (4 * extWords ext - b.length) 0
            ∧ (b.length % 4 = 0 → v.dfr.xblock = b))
        ∧ (ext = none → v.dfr.xprofile = 0 ∧ v.dfr.xblock = [])
        ∧ v.dfr.xlen.toNat = extWords ext
        ∧ v.dfr.payload = payload

/-! GET. -/

/-- R161, R165 to R168: the five integer fields, zero-extended to 32 bits. -/
def Obligations.GetReturnsIntegerFields : Prop :=
  ∀ s : State, s.dfr.valid = true →
    let result (v : Word) : Host.Outcome State Fault Refusal :=
      .next { s with
        status := 0x00300001
        res := { tag := .uint, uint := v, count := 0, words := Vector.replicate 15 0
                 profile := 0, bytes := [] } }
    exec .getVersion s = result (BitVec.ofNat 32 s.dfr.version.toNat)
      ∧ exec .getPayloadType s = result (BitVec.ofNat 32 s.dfr.pt.toNat)
      ∧ exec .getSequenceNumber s = result (BitVec.ofNat 32 s.dfr.seq.toNat)
      ∧ exec .getTimestamp s = result s.dfr.ts
      ∧ exec .getSsrc s = result s.dfr.ssrc

/-- R162 to R164: the three flags, as 0 or 1. -/
def Obligations.GetReturnsFlags : Prop :=
  ∀ s : State, s.dfr.valid = true →
    let result (b : Bool) : Host.Outcome State Fault Refusal :=
      .next { s with
        status := 0x00300001
        res := { tag := .bool, uint := if b then 1 else 0, count := 0
                 words := Vector.replicate 15 0, profile := 0, bytes := [] } }
    exec .getPadding s = result s.dfr.p ∧ exec .getExtension s = result s.dfr.x
      ∧ exec .getMarker s = result s.dfr.m

/-- R169: the CSRC list, COUNT entries in wire order and 0 above. -/
def Obligations.GetReturnsCsrcList : Prop :=
  ∀ s : State, s.dfr.valid = true →
    ∃ r : Res, exec .getCsrcs s = .next { s with status := 0x00300001, res := r }
      ∧ r.tag = .words ∧ r.count = s.dfr.cc
      ∧ (∀ k : Fin 15, r.words[k] = if k.val < s.dfr.cc.toNat then s.dfr.csrc[k] else 0)
      ∧ r.uint = 0 ∧ r.profile = 0 ∧ r.bytes = []

/-- R170: EXT_ABSENT when X = 0; profile and block when X = 1, the block being 4*XLEN bytes in every
state that meets the invariant. -/
def Obligations.GetReturnsExtension : Prop :=
  ∀ s : State, s.dfr.valid = true →
    (s.dfr.x = false → exec .getExtensionHeader s = .next { s with
        status := 0x00300001
        res := { tag := .extAbsent, uint := 0, count := 0, words := Vector.replicate 15 0
                 profile := 0, bytes := [] } })
      ∧ (s.dfr.x = true → exec .getExtensionHeader s = .next { s with
        status := 0x00300001
        res := { tag := .extPresent, uint := 0, count := 0, words := Vector.replicate 15 0
                 profile := s.dfr.xprofile, bytes := s.dfr.xblock } })
      ∧ (s.inv → s.dfr.x = true → ∀ t, exec .getExtensionHeader s = .next t →
          t.res.bytes.length = 4 * s.dfr.xlen.toNat)

/-- R171: the payload, padding already stripped. -/
def Obligations.GetReturnsPayload : Prop :=
  ∀ s : State, s.dfr.valid = true →
    exec .getPayload s = .next { s with
      status := 0x00300001
      res := { tag := .bytes, uint := 0, count := 0, words := Vector.replicate 15 0
               profile := 0, bytes := s.dfr.payload } }

/-- R160: with no decoded frame every GET reports NO_FRAME and RES returns to its reset value. -/
def Obligations.GetWithoutFrameReportsNoFrame : Prop :=
  ∀ (s : State) (i : Instr), isGet i = true → s.dfr.valid = false →
    exec i s = .next { s with status := 0x00300516, res := Res.reset }

/-- R160: a GET reads DFR alone and writes RES and STATUS alone, so it is idempotent. -/
def Obligations.GetReadsFrameAndWritesResultOnly : Prop :=
  ∀ (i : Instr) (s₁ s₂ : State), isGet i = true → s₁.dfr = s₂.dfr →
    ∃ (st : Word) (r : Res), exec i s₁ = .next { s₁ with status := st, res := r }
      ∧ exec i s₂ = .next { s₂ with status := st, res := r }

/-- R225: after a failed DEC every GET reports NO_FRAME; it never returns the older frame. -/
def Obligations.FailedDecLeavesNoFrame : Prop :=
  ∀ (s t : State) (i : Instr), exec .dec s = .next t → stOk t.status = false → isGet i = true →
    exec i t = .next { t with status := 0x00300516, res := Res.reset }

/-- R36: a host write to IBUF after DEC changes no DFR field, so a GET returns what it would have
returned before. -/
def Obligations.HostWriteToIbufKeepsTheFrame : Prop :=
  ∀ (s : State) (b : Bytes) (i : Instr), b.length ≤ s.cfg.ibufCap → isGet i = true →
    ∃ t u v, hostWrite 0x20 (.bytes b) s = .next t ∧ t.ibuf = b ∧ t.dfr = s.dfr
      ∧ exec i s = .next u ∧ exec i t = .next v ∧ v.res = u.res ∧ v.status = u.status

/-! Errors and STATUS. -/

/-- R195 and R196: a command that fails writes STATUS and the outputs of its row, and nothing
else. -/
def Obligations.FailedCommandsWriteOnlyTheirOutputs : Prop :=
  ∀ (s t : State), stOk t.status = false →
    (exec .enc s = .next t → t = { s with status := t.status, obuf := [], eir := EIR.reset })
      ∧ (exec .dec s = .next t → t = { s with status := t.status, dfr := DFR.reset })
      ∧ (∀ i, isGet i = true → exec i s = .next t →
          t = { s with status := t.status, res := Res.reset })
      ∧ (∀ w fid, decode w = .error (.unknownField fid) → issue w s = .next t →
          t = { s with status := t.status, res := Res.reset })
      ∧ (∀ w, decode w = .error .illegalOp ∨ decode w = .error .reservedBits →
          issue w s = .next t → t = { s with status := t.status })

/-- R24: every command word completes; it sets OK to 1 and CLASS to NONE, or OK to 0 and CLASS to
an error's class; and no command reads STATUS. -/
def Obligations.EveryCommandReportsInStatus : Prop :=
  ∀ (s : State) (w : Word), ∃ t, issue w s = .next t
    ∧ stOp t.status = w.extractLsb' 0 4
    ∧ ((stOk t.status = true ∧ stClass t.status = 0)
        ∨ (stOk t.status = false ∧ stClass t.status ≠ 0))
    ∧ ∀ v : Word, issue w { s with status := v } = .next t

/-- R193 and R194: the completion words, and each field of an error's word read back. -/
def Obligations.StatusFieldsReadBack : Prop :=
  ∀ (op : BitVec 4) (e : CmdError),
    statusOk op = BitVec.ofNat 32 (op.toNat * 2 ^ 20 + 1)
      ∧ statusError op e = errorReport op.toNat e
      ∧ stOk (statusError op e) = false
      ∧ stClass (statusError op e) = e.code.cls.val
      ∧ stCode (statusError op e) = e.code.val
      ∧ stField (statusError op e) = e.field.val
      ∧ stIndex (statusError op e) = e.index
      ∧ stOp (statusError op e) = op
      ∧ stReserved (statusError op e) = 0

/-! The host interface. -/

/-- R57: the register map, number by number, with the access of each register; every other number
names no register. -/
def Obligations.RegisterMapIsTheTable : Prop :=
  ([.cmd, .status, .eSsrc, .ePt, .ePayload, .eSeq, .eTs, .eCsrcN, .eMarker, .ePad, .eXpresent,
      .eXprofile, .eXblock, .eVersion, .ibuf, .obuf, .resTag, .resUint, .resCount, .resProfile,
      .resBytes] : List Reg).map (fun r => (regNumber r, regWritable r, regReadable r))
    = [(0x00, true, false), (0x01, false, true), (0x02, true, false), (0x03, true, false),
       (0x04, true, false), (0x05, true, false), (0x06, true, false), (0x07, true, false),
       (0x08, true, false), (0x09, true, false), (0x0A, true, false), (0x0B, true, false),
       (0x0C, true, false), (0x0D, true, false), (0x20, true, true), (0x21, false, true),
       (0x30, false, true), (0x31, false, true), (0x32, false, true), (0x33, false, true),
       (0x34, false, true)]
    ∧ (∀ k : Fin 15, (regNumber (.eCsrc k)).toNat = 0x10 + k.val
        ∧ regWritable (.eCsrc k) = true ∧ regReadable (.eCsrc k) = false)
    ∧ (∀ k : Fin 15, (regNumber (.resWords k)).toNat = 0x40 + k.val
        ∧ regWritable (.resWords k) = false ∧ regReadable (.resWords k) = true)
    ∧ (∀ (n : BitVec 8) (r : Reg), regOfNumber n = some r ↔ regNumber r = n)

/-- R58: which host accesses have a step; every other one is refused. The integer widths are the
model's reading (log 7). -/
def Obligations.AccessesAreAdmittedOrRefused : Prop :=
  ∀ (s : State) (n : BitVec 8) (v : HostValue),
    (writeAdmitted s.cfg n.toNat v → ∃ t, hostWrite n v s = .next t)
      ∧ (¬ writeAdmitted s.cfg n.toNat v → ∃ why, hostWrite n v s = .refused why)
      ∧ (isReadableNumber n.toNat → ∃ t, hostRead n s = .next t)
      ∧ (¬ isReadableNumber n.toNat → ∃ why, hostRead n s = .refused why)

/-- R58 and R29: a write to a scalar input sets its value, every s64 value among them, and its
written bit, and nothing else. -/
def Obligations.ScalarWritesSetValueAndWrittenBit : Prop :=
  ∀ (s : State) (v : Int), -2 ^ 63 ≤ v → v < 2 ^ 63 →
    ∃ x : S64, x.toInt = v
      ∧ hostWrite 0x02 (.int v) s = .next { s with eir := { s.eir with ssrc := some x } }
      ∧ hostWrite 0x03 (.int v) s = .next { s with eir := { s.eir with pt := some x } }
      ∧ hostWrite 0x05 (.int v) s = .next { s with eir := { s.eir with seq := some x } }
      ∧ hostWrite 0x06 (.int v) s = .next { s with eir := { s.eir with ts := some x } }
      ∧ hostWrite 0x07 (.int v) s = .next { s with eir := { s.eir with csrcN := ⟨x, true⟩ } }
      ∧ hostWrite 0x09 (.int v) s = .next { s with eir := { s.eir with pad := ⟨x, true⟩ } }
      ∧ hostWrite 0x0B (.int v) s = .next { s with eir := { s.eir with xprofile := some x } }
      ∧ hostWrite 0x0D (.int v) s = .next { s with eir := { s.eir with version := ⟨x, true⟩ } }
      ∧ ∀ k : Fin 15, ∃ regs : Vector (Option S64) 15,
          hostWrite (BitVec.ofNat 8 (0x10 + k.val)) (.int v) s
              = .next { s with eir := { s.eir with csrc := regs } }
            ∧ ∀ j : Fin 15, regs[j] = if j = k then some x else s.eir.csrc[j]

/-- R58 and R29: a write to a 1-bit input or to a byte-sequence register, and nothing else
changes. -/
def Obligations.BitAndByteWritesSetTheRegister : Prop :=
  ∀ (s : State) (v : Bool) (b : Bytes),
    let i : HostValue := .int (if v then 1 else 0)
    hostWrite 0x08 i s = .next { s with eir := { s.eir with marker := ⟨v, true⟩ } }
      ∧ hostWrite 0x0A i s = .next { s with eir := { s.eir with xpresent := ⟨v, true⟩ } }
      ∧ (b.length ≤ s.cfg.payloadCap →
          hostWrite 0x04 (.bytes b) s = .next { s with eir := { s.eir with payload := some b } })
      ∧ (b.length ≤ s.cfg.xblockCap →
          hostWrite 0x0C (.bytes b) s = .next { s with eir := { s.eir with xblock := some b } })
      ∧ (b.length ≤ s.cfg.ibufCap → hostWrite 0x20 (.bytes b) s = .next { s with ibuf := b })

/-- R56: a host read returns the register's value and changes no register, so a second read returns
the same. Where the value goes is the model's (log 4). -/
def Obligations.ReadsReturnTheRegister : Prop :=
  ∀ s : State,
    let reads (n : BitVec 8) (v : HostValue) : Prop :=
      hostRead n s = .next { s with returned := s.returned ++ [v] }
        ∧ hostRead n { s with returned := s.returned ++ [v] }
          = .next { s with returned := s.returned ++ [v] ++ [v] }
    reads 0x01 (.int s.status.toNat) ∧ reads 0x20 (.bytes s.ibuf) ∧ reads 0x21 (.bytes s.obuf)
      ∧ reads 0x30 (.int (match s.res.tag with
          | .empty => 0 | .uint => 1 | .bool => 2 | .words => 3 | .bytes => 4 | .extAbsent => 5
          | .extPresent => 6))
      ∧ reads 0x31 (.int s.res.uint.toNat) ∧ reads 0x32 (.int s.res.count.toNat)
      ∧ reads 0x33 (.int s.res.profile.toNat) ∧ reads 0x34 (.bytes s.res.bytes)
      ∧ ∀ k : Fin 15, reads (BitVec.ofNat 8 (0x40 + k.val)) (.int (s.res.words[k]).toNat)

/-- R76: what each assembler line does. -/
def Obligations.AssemblerLinesIssueTheirWords : Prop :=
  ∀ s : State,
    perform (asmAction .enc) s = issue 0x00000001 s
      ∧ perform (asmAction .dec) s = issue 0x00000002 s
      ∧ (∀ f : FieldId, perform (asmAction (.get f)) s = exec f.instr s)
      ∧ (∀ w : Word, perform (asmAction (.word w)) s = issue w s)
      ∧ (∀ r v, asmAction (.wr r v) = .write (regNumber r) v)
      ∧ ∀ r, asmAction (.rd r) = .read (regNumber r)

/-- R77: on a decoded frame `GET f1, ..., fn` gives the n values in order, each the RES its GET
writes; with no frame it stops at the first GET with that error and no list. -/
def Obligations.GetListReturnsValuesOrFirstError : Prop :=
  ∀ (s : State) (f : FieldId) (fs : List FieldId),
    (s.dfr.valid = true → ∃ u l, getList (f :: fs) s = .next (u, .values l)
        ∧ l.length = fs.length + 1 ∧ u.dfr = s.dfr ∧ u.status = 0x00300001
        ∧ ∀ (k : Nat) (g : FieldId), (f :: fs)[k]? = some g →
            ∃ t, exec g.instr s = .next t ∧ l[k]? = some t.res)
      ∧ (s.dfr.valid = false →
          getList (f :: fs) s = .next
            ({ s with status := 0x00300516, res := Res.reset }, .failed 0x00300516))

/-- R63: an action on one instance leaves every other instance as it was, and gives this one the
state it would have alone. -/
def Obligations.InstancesShareNothing : Prop :=
  ∀ (sys : List State) (k : Nat) (s : State) (a : HostAction), sys[k]? = some s →
    (∀ t, perform a s = .next t → ∃ sys', performAt k a sys = .next sys'
        ∧ sys'[k]? = some t ∧ ∀ j, j ≠ k → sys'[j]? = sys[j]?)
      ∧ ∀ why, perform a s = .refused why → performAt k a sys = .refused why

/-! Reset and the whole machine. -/

/-- R220: reset writes every register to its reset value; the capacities are not state and stay
(R20). -/
def Obligations.ResetWritesEveryRegister : Prop :=
  ∀ s : State, ∃ t, perform .reset s = .next t ∧ t.cfg = s.cfg ∧ t.status = 0
    ∧ t.eir.csrcN = ⟨0, true⟩ ∧ t.eir.marker = ⟨false, true⟩ ∧ t.eir.pad = ⟨0, true⟩
    ∧ t.eir.xpresent = ⟨false, true⟩ ∧ t.eir.version = ⟨2, true⟩
    ∧ t.eir.ssrc = none ∧ t.eir.pt = none ∧ t.eir.payload = none ∧ t.eir.seq = none
    ∧ t.eir.ts = none ∧ (∀ k : Fin 15, t.eir.csrc[k] = none) ∧ t.eir.xprofile = none
    ∧ t.eir.xblock = none
    ∧ t.ibuf = [] ∧ t.obuf = []
    ∧ t.dfr.valid = false ∧ t.dfr.version = 0 ∧ t.dfr.p = false ∧ t.dfr.x = false
    ∧ t.dfr.cc = 0 ∧ t.dfr.m = false ∧ t.dfr.pt = 0 ∧ t.dfr.seq = 0 ∧ t.dfr.ts = 0
    ∧ t.dfr.ssrc = 0 ∧ (∀ k : Fin 15, t.dfr.csrc[k] = 0) ∧ t.dfr.xprofile = 0 ∧ t.dfr.xlen = 0
    ∧ t.dfr.xblock = [] ∧ t.dfr.payload = []
    ∧ t.res.tag = .empty ∧ t.res.uint = 0 ∧ t.res.count = 0
    ∧ (∀ k : Fin 15, t.res.words[k] = 0) ∧ t.res.profile = 0 ∧ t.res.bytes = []

/-- The machine right after reset meets the invariant (its capacities are the model's choice,
log 3). -/
def Obligations.ResetMeetsInvariant : Prop :=
  State.reset.inv ∧ ∀ c : Config, c.wf = true → (State.resetWith c).inv

/-- Every step keeps the invariant: capacities, written bits of the defaulted inputs, the unused
fields of DFR and RES at 0 or [], and STATUS among the words the spec ever writes (R23, R25, R31,
R34, R35, R37, R192). -/
def Obligations.EveryStepKeepsInvariant : Prop :=
  ∀ s t : State, s.inv → step s = .next t → t.inv

/-- R35: DFR.VALID rises only by a successful DEC. -/
def Obligations.ValidRisesOnlyBySuccessfulDec : Prop :=
  ∀ s t : State, step s = .next t → s.dfr.valid = false → t.dfr.valid = true →
    ∃ rest, s.pending = .write 0x00 (.int 0x00000002) :: rest
      ∧ firstFailure (decChecks s.ibuf) = none ∧ t.status = 0x00200001

/-- R221: each register changes only by its own writer: an admitted host write, a command, or
reset; the capacities never change. -/
def Obligations.RegistersChangeOnlyByTheirWriters : Prop :=
  ∀ s t : State, step s = .next t →
    t.cfg = s.cfg
      ∧ (t ≠ s → ∃ a rest, s.pending = a :: rest ∧ t.pending = rest
        ∧ (t.status ≠ s.status → a = .reset ∨ ∃ v, a = .write 0x00 v)
        ∧ (t.eir ≠ s.eir → a = .reset ∨ a = .write 0x00 (.int 0x00000001)
            ∨ ∃ n v, a = .write n v ∧ 0x02 ≤ n.toNat ∧ n.toNat ≤ 0x1E)
        ∧ (t.ibuf ≠ s.ibuf → a = .reset ∨ a = .write 0x20 (.bytes t.ibuf))
        ∧ (t.obuf ≠ s.obuf → a = .reset ∨ a = .write 0x00 (.int 0x00000001))
        ∧ (t.dfr ≠ s.dfr → a = .reset ∨ a = .write 0x00 (.int 0x00000002))
        ∧ (t.res ≠ s.res → a = .reset
            ∨ ∃ fid : Fin 16, a = .write 0x00 (.int (0x03 + 0x10 * fid.val)))
        ∧ (t.returned ≠ s.returned → ∃ n, a = .read n))

/-! Byte order. -/

/-- R13: `BE` puts the most-significant byte first, `RdBE` is the stated sum, and reading back what
was written gives the value. -/
def Obligations.BigEndianReadsBack : Prop :=
  (∀ v n i : Nat, (be v n).length = n ∧ (i < n → (be v n)[i]? = some (beByte v n i)))
    ∧ (∀ (s : Bytes) (off n : Nat), off + n ≤ s.length →
        rdBE s off n
          = ((List.range n).map fun i => byteNat s (off + i) * 256 ^ (n - 1 - i)).sum)
    ∧ ∀ (front back : Bytes) (v n : Nat), v < 256 ^ n →
        rdBE (front ++ be v n ++ back) front.length n = v
end

