-- ==== Sys2Proof/Laws/State.lean ====
section
/-! SUPPORT. What each named update of State does to each field, so that no proof unfolds a record
update. -/

namespace Sys2Proof.Machine

@[simp] theorem State.setStatus_cfg (s : State) (v : Word) : (s.setStatus v).cfg = s.cfg := rfl
@[simp] theorem State.setStatus_status (s : State) (v : Word) : (s.setStatus v).status = v := rfl
@[simp] theorem State.setStatus_eir (s : State) (v : Word) : (s.setStatus v).eir = s.eir := rfl
@[simp] theorem State.setStatus_ibuf (s : State) (v : Word) : (s.setStatus v).ibuf = s.ibuf := rfl
@[simp] theorem State.setStatus_obuf (s : State) (v : Word) : (s.setStatus v).obuf = s.obuf := rfl
@[simp] theorem State.setStatus_dfr (s : State) (v : Word) : (s.setStatus v).dfr = s.dfr := rfl
@[simp] theorem State.setStatus_res (s : State) (v : Word) : (s.setStatus v).res = s.res := rfl
@[simp] theorem State.setStatus_pending (s : State) (v : Word) : (s.setStatus v).pending = s.pending := rfl
@[simp] theorem State.setStatus_returned (s : State) (v : Word) : (s.setStatus v).returned = s.returned := rfl

@[simp] theorem State.setEir_cfg (s : State) (v : EIR) : (s.setEir v).cfg = s.cfg := rfl
@[simp] theorem State.setEir_status (s : State) (v : EIR) : (s.setEir v).status = s.status := rfl
@[simp] theorem State.setEir_eir (s : State) (v : EIR) : (s.setEir v).eir = v := rfl
@[simp] theorem State.setEir_ibuf (s : State) (v : EIR) : (s.setEir v).ibuf = s.ibuf := rfl
@[simp] theorem State.setEir_obuf (s : State) (v : EIR) : (s.setEir v).obuf = s.obuf := rfl
@[simp] theorem State.setEir_dfr (s : State) (v : EIR) : (s.setEir v).dfr = s.dfr := rfl
@[simp] theorem State.setEir_res (s : State) (v : EIR) : (s.setEir v).res = s.res := rfl
@[simp] theorem State.setEir_pending (s : State) (v : EIR) : (s.setEir v).pending = s.pending := rfl
@[simp] theorem State.setEir_returned (s : State) (v : EIR) : (s.setEir v).returned = s.returned := rfl

@[simp] theorem State.setIbuf_cfg (s : State) (v : Bytes) : (s.setIbuf v).cfg = s.cfg := rfl
@[simp] theorem State.setIbuf_status (s : State) (v : Bytes) : (s.setIbuf v).status = s.status := rfl
@[simp] theorem State.setIbuf_eir (s : State) (v : Bytes) : (s.setIbuf v).eir = s.eir := rfl
@[simp] theorem State.setIbuf_ibuf (s : State) (v : Bytes) : (s.setIbuf v).ibuf = v := rfl
@[simp] theorem State.setIbuf_obuf (s : State) (v : Bytes) : (s.setIbuf v).obuf = s.obuf := rfl
@[simp] theorem State.setIbuf_dfr (s : State) (v : Bytes) : (s.setIbuf v).dfr = s.dfr := rfl
@[simp] theorem State.setIbuf_res (s : State) (v : Bytes) : (s.setIbuf v).res = s.res := rfl
@[simp] theorem State.setIbuf_pending (s : State) (v : Bytes) : (s.setIbuf v).pending = s.pending := rfl
@[simp] theorem State.setIbuf_returned (s : State) (v : Bytes) : (s.setIbuf v).returned = s.returned := rfl

@[simp] theorem State.setObuf_cfg (s : State) (v : Bytes) : (s.setObuf v).cfg = s.cfg := rfl
@[simp] theorem State.setObuf_status (s : State) (v : Bytes) : (s.setObuf v).status = s.status := rfl
@[simp] theorem State.setObuf_eir (s : State) (v : Bytes) : (s.setObuf v).eir = s.eir := rfl
@[simp] theorem State.setObuf_ibuf (s : State) (v : Bytes) : (s.setObuf v).ibuf = s.ibuf := rfl
@[simp] theorem State.setObuf_obuf (s : State) (v : Bytes) : (s.setObuf v).obuf = v := rfl
@[simp] theorem State.setObuf_dfr (s : State) (v : Bytes) : (s.setObuf v).dfr = s.dfr := rfl
@[simp] theorem State.setObuf_res (s : State) (v : Bytes) : (s.setObuf v).res = s.res := rfl
@[simp] theorem State.setObuf_pending (s : State) (v : Bytes) : (s.setObuf v).pending = s.pending := rfl
@[simp] theorem State.setObuf_returned (s : State) (v : Bytes) : (s.setObuf v).returned = s.returned := rfl

@[simp] theorem State.setDfr_cfg (s : State) (v : DFR) : (s.setDfr v).cfg = s.cfg := rfl
@[simp] theorem State.setDfr_status (s : State) (v : DFR) : (s.setDfr v).status = s.status := rfl
@[simp] theorem State.setDfr_eir (s : State) (v : DFR) : (s.setDfr v).eir = s.eir := rfl
@[simp] theorem State.setDfr_ibuf (s : State) (v : DFR) : (s.setDfr v).ibuf = s.ibuf := rfl
@[simp] theorem State.setDfr_obuf (s : State) (v : DFR) : (s.setDfr v).obuf = s.obuf := rfl
@[simp] theorem State.setDfr_dfr (s : State) (v : DFR) : (s.setDfr v).dfr = v := rfl
@[simp] theorem State.setDfr_res (s : State) (v : DFR) : (s.setDfr v).res = s.res := rfl
@[simp] theorem State.setDfr_pending (s : State) (v : DFR) : (s.setDfr v).pending = s.pending := rfl
@[simp] theorem State.setDfr_returned (s : State) (v : DFR) : (s.setDfr v).returned = s.returned := rfl

@[simp] theorem State.setRes_cfg (s : State) (v : Res) : (s.setRes v).cfg = s.cfg := rfl
@[simp] theorem State.setRes_status (s : State) (v : Res) : (s.setRes v).status = s.status := rfl
@[simp] theorem State.setRes_eir (s : State) (v : Res) : (s.setRes v).eir = s.eir := rfl
@[simp] theorem State.setRes_ibuf (s : State) (v : Res) : (s.setRes v).ibuf = s.ibuf := rfl
@[simp] theorem State.setRes_obuf (s : State) (v : Res) : (s.setRes v).obuf = s.obuf := rfl
@[simp] theorem State.setRes_dfr (s : State) (v : Res) : (s.setRes v).dfr = s.dfr := rfl
@[simp] theorem State.setRes_res (s : State) (v : Res) : (s.setRes v).res = v := rfl
@[simp] theorem State.setRes_pending (s : State) (v : Res) : (s.setRes v).pending = s.pending := rfl
@[simp] theorem State.setRes_returned (s : State) (v : Res) : (s.setRes v).returned = s.returned := rfl

@[simp] theorem State.setPending_cfg (s : State) (v : List HostAction) : (s.setPending v).cfg = s.cfg := rfl
@[simp] theorem State.setPending_status (s : State) (v : List HostAction) : (s.setPending v).status = s.status := rfl
@[simp] theorem State.setPending_eir (s : State) (v : List HostAction) : (s.setPending v).eir = s.eir := rfl
@[simp] theorem State.setPending_ibuf (s : State) (v : List HostAction) : (s.setPending v).ibuf = s.ibuf := rfl
@[simp] theorem State.setPending_obuf (s : State) (v : List HostAction) : (s.setPending v).obuf = s.obuf := rfl
@[simp] theorem State.setPending_dfr (s : State) (v : List HostAction) : (s.setPending v).dfr = s.dfr := rfl
@[simp] theorem State.setPending_res (s : State) (v : List HostAction) : (s.setPending v).res = s.res := rfl
@[simp] theorem State.setPending_pending (s : State) (v : List HostAction) : (s.setPending v).pending = v := rfl
@[simp] theorem State.setPending_returned (s : State) (v : List HostAction) : (s.setPending v).returned = s.returned := rfl

@[simp] theorem State.addReturned_cfg (s : State) (v : HostValue) : (s.addReturned v).cfg = s.cfg := rfl
@[simp] theorem State.addReturned_status (s : State) (v : HostValue) : (s.addReturned v).status = s.status := rfl
@[simp] theorem State.addReturned_eir (s : State) (v : HostValue) : (s.addReturned v).eir = s.eir := rfl
@[simp] theorem State.addReturned_ibuf (s : State) (v : HostValue) : (s.addReturned v).ibuf = s.ibuf := rfl
@[simp] theorem State.addReturned_obuf (s : State) (v : HostValue) : (s.addReturned v).obuf = s.obuf := rfl
@[simp] theorem State.addReturned_dfr (s : State) (v : HostValue) : (s.addReturned v).dfr = s.dfr := rfl
@[simp] theorem State.addReturned_res (s : State) (v : HostValue) : (s.addReturned v).res = s.res := rfl
@[simp] theorem State.addReturned_pending (s : State) (v : HostValue) : (s.addReturned v).pending = s.pending := rfl
@[simp] theorem State.addReturned_returned (s : State) (v : HostValue) : (s.addReturned v).returned = s.returned ++ [v] := rfl

/-- An update with the value the field has is no update. -/
@[simp] theorem State.setPending_self (s : State) : s.setPending s.pending = s := rfl

@[simp] theorem State.setPending_setPending (s : State) (v w : List HostAction) :
    (s.setPending v).setPending w = s.setPending w := rfl

end Sys2Proof.Machine
end

