-- ==== Sys2Proof/Laws/Completion.lean ====
section
/-! SUPPORT. The two completions: what each changes, class by class (60_exceptions.md R193 to
R196). -/

namespace Sys2Proof.Machine

/-- Success writes STATUS alone. -/
theorem completeOk_eq (op : BitVec 4) (s : State) :
    completeOk op s = s.setStatus (statusOk op) := rfl

/-- A VALIDATION error empties OBUF and consumes EIR. -/
theorem completeError_validation (op : BitVec 4) (e : CmdError) (s : State)
    (h : e.code.cls = .validation) :
    completeError op e s
      = { s with status := statusError op e, obuf := [], eir := EIR.reset } := by
  simp [completeError, clearOutputs, h, State.setObuf, State.setEir, State.setStatus]

/-- A MALFORMED error resets DFR. -/
theorem completeError_malformed (op : BitVec 4) (e : CmdError) (s : State)
    (h : e.code.cls = .malformed) :
    completeError op e s = { s with status := statusError op e, dfr := DFR.reset } := by
  simp [completeError, clearOutputs, h, State.setDfr, State.setStatus]

/-- An ACCESSOR error resets RES. -/
theorem completeError_accessor (op : BitVec 4) (e : CmdError) (s : State)
    (h : e.code.cls = .accessor) :
    completeError op e s = { s with status := statusError op e, res := Res.reset } := by
  simp [completeError, clearOutputs, h, State.setRes, State.setStatus]

/-- A COMMAND error clears nothing. -/
theorem completeError_command (op : BitVec 4) (e : CmdError) (s : State)
    (h : e.code.cls = .command) :
    completeError op e s = { s with status := statusError op e } := by
  simp [completeError, clearOutputs, h, State.setStatus]

/-- No code has class NONE. -/
theorem ErrCode.cls_ne_none (c : ErrCode) : c.cls ≠ .none := by cases c <;> decide

/-- An error report has OK = 0. -/
theorem stOk_statusError (op : BitVec 4) (e : CmdError) : stOk (statusError op e) = false := by
  simp [stOk, statusError]

/-- A success report has OK = 1. -/
theorem stOk_statusOk (op : BitVec 4) : stOk (statusOk op) = true := by
  simp [stOk, statusOk]

end Sys2Proof.Machine
end

