-- ==== Sys2Proof/Laws/Accessor.lean ====
section
/-! SUPPORT. GET: what every GET can do, and the value each field identifier gives (42_accessor.md
R160 to R171). -/

namespace Sys2Proof.Machine

/-- A GET of a decoded frame writes RES and STATUS. -/
theorem completeGet_valid (value : DFR → Res) (s : State) (h : s.dfr.valid = true) :
    completeGet value s = { s with status := statusOk 3, res := value s.dfr } := by
  simp [completeGet, h, completeOk, State.setRes, State.setStatus]

/-- A GET with no frame reports NO_FRAME and resets RES. -/
theorem completeGet_noFrame (value : DFR → Res) (s : State) (h : s.dfr.valid = false) :
    completeGet value s
      = { s with status := statusError 3 ⟨.noFrame, .none, 0⟩, res := Res.reset } := by
  simp only [completeGet, h, Bool.false_eq_true, if_false]
  exact completeError_accessor _ _ _ rfl

/-- The RES value of each GET; the two commands that are no GET have none. -/
def getValue : Instr → Option (DFR → Res)
  | .enc => none
  | .dec => none
  | .getVersion => some fun d => Res.ofUint (d.version.setWidth 32)
  | .getPadding => some fun d => Res.ofBool d.p
  | .getExtension => some fun d => Res.ofBool d.x
  | .getMarker => some fun d => Res.ofBool d.m
  | .getPayloadType => some fun d => Res.ofUint (d.pt.setWidth 32)
  | .getSequenceNumber => some fun d => Res.ofUint (d.seq.setWidth 32)
  | .getTimestamp => some fun d => Res.ofUint d.ts
  | .getSsrc => some fun d => Res.ofUint d.ssrc
  | .getCsrcs => some fun d => Res.ofWords d.cc d.csrc
  | .getExtensionHeader => some fun d => Res.ofExt d.x d.xprofile d.xblock
  | .getPayload => some fun d => Res.ofBytes d.payload

/-- Every command is ENC, DEC, or a GET of its value. -/
theorem exec_cases (i : Instr) :
    (i = .enc ∧ ∀ s, exec i s = execEnc s) ∨ (i = .dec ∧ ∀ s, exec i s = execDec s)
      ∨ (i ≠ .enc ∧ i ≠ .dec
        ∧ ∃ value, getValue i = some value ∧ ∀ s, exec i s = .next (completeGet value s)) := by
  cases i
  case enc => exact .inl ⟨rfl, fun _ => rfl⟩
  case dec => exact .inr (.inl ⟨rfl, fun _ => rfl⟩)
  all_goals exact .inr (.inr ⟨by decide, by decide, _, rfl, fun _ => rfl⟩)

/-- Entry k of a WORDS result. -/
theorem Res.ofWords_get (n : BitVec 4) (l : Vector Word 15) (k : Fin 15) :
    (Res.ofWords n l).words[k] = if k.val < n.toNat then l[k] else 0 := by
  simp [Res.ofWords]

end Sys2Proof.Machine
end

