-- ==== Sys2Proof/Laws/Bytes.lean ====
section
/-! SUPPORT. Byte sequences: lengths, big-endian numbers, slices (00_scope.md R11 to R13). -/

namespace Sys2Proof.Machine

@[simp] theorem zeros_length (n : Nat) : (zeros n).length = n := by simp [zeros]

@[simp] theorem be_length (v n : Nat) : (be v n).length = n := by simp [be]

@[simp] theorem slice_length (s : Bytes) (a b : Nat) :
    (slice s a b).length = min b s.length - a := by simp [slice]

/-- `ceildiv(n, 4)` words are the fewest that hold n bytes. -/
theorem ceildiv4_bounds (n : Nat) : n ≤ 4 * ceildiv4 n ∧ 4 * ceildiv4 n < n + 4 := by
  unfold ceildiv4; omega

/-- A big-endian number is its leading byte followed by the rest. -/
theorem be_succ (v n : Nat) : be v (n + 1) = BitVec.ofNat 8 (v >>> (8 * n)) :: be v n := by
  simp only [be, List.range_succ_eq_map, List.map_cons, List.map_map]
  congr 1
  apply List.map_congr_left
  intro i _
  simp only [Function.comp]
  congr 3
  omega

/-- Horner's scheme over a big-endian number gives the number, above what was there. -/
theorem foldl_be (v n acc : Nat) (h : v < 256 ^ n) :
    (be v n).foldl (fun a b => a * 256 + b.toNat) acc = acc * 256 ^ n + v := by
  have key : ∀ (n acc : Nat), (be v n).foldl (fun a b => a * 256 + b.toNat) acc
      = acc * 256 ^ n + v % 256 ^ n := by
    intro n
    induction n with
    | zero => intro acc; simp [be, Nat.mod_one]
    | succ n ih =>
      intro acc
      rw [be_succ, List.foldl_cons, ih]
      have h8 : (2 : Nat) ^ (8 * n) = 256 ^ n := by rw [Nat.pow_mul]
      simp only [BitVec.toNat_ofNat, Nat.shiftRight_eq_div_pow, h8]
      have := Nat.mod_mul (x := v) (a := 256 ^ n) (b := 256)
      rw [show v % 256 ^ (n + 1) = _ from this, Nat.pow_succ]
      norm_num
      ring
  rw [key, Nat.mod_eq_of_lt h]

/-- A slice that starts where a prefix ends. -/
theorem slice_append_left (front mid back : Bytes) :
    slice (front ++ mid ++ back) front.length (front.length + mid.length) = mid := by
  simp [slice, List.take_append]

/-- Reading back a big-endian number written after a prefix. -/
theorem rdBE_be (front back : Bytes) (v n : Nat) (h : v < 256 ^ n) :
    rdBE (front ++ be v n ++ back) front.length n = v := by
  have := slice_append_left front (be v n) back
  rw [be_length] at this
  rw [rdBE, memRead, this, foldl_be _ _ _ h]
  omega

/-- MemRead gives back what MemWrite put there (R13). -/
theorem memRead_memWrite (s v : Bytes) (off : Nat) (h : off ≤ s.length) :
    memRead (memWrite s off v.length v) off v.length = v := by
  have hl : (s.take off).length = off := by simp [h]
  have := slice_append_left (s.take off) v (s.drop (off + v.length))
  rw [hl] at this
  exact this

end Sys2Proof.Machine
end

