-- ==== Sys2Proof/Laws/Operands.lean ====
section
/-! SUPPORT. Reading ENC's operands: exactly when `Need` and `Range` answer a value, and that every
error they raise is a VALIDATION error (40_encoder.md R101). -/

namespace Sys2Proof.Machine

/-- A bind succeeds exactly when both parts do. -/
theorem except_bind_ok {ε α β : Type} {x : Except ε α} {f : α → Except ε β} {b : β} :
    (x >>= f) = .ok b ↔ ∃ a, x = .ok a ∧ f a = .ok b := by
  cases x <;> simp [bind, Except.bind]

/-- A bind fails exactly when its first part fails or its second does. -/
theorem except_bind_error {ε α β : Type} {x : Except ε α} {f : α → Except ε β} {e : ε} :
    (x >>= f) = .error e ↔ x = .error e ∨ ∃ a, x = .ok a ∧ f a = .error e := by
  cases x <;> simp [bind, Except.bind]

theorem need_ok {α : Type} {r : Option α} {f : InputField} {k : BitVec 4} {v : α} :
    need r f k = .ok v ↔ r = some v := by
  cases r <;> simp [need]

theorem need_error {α : Type} {r : Option α} {f : InputField} {k : BitVec 4} {e : CmdError} :
    need r f k = .error e ↔ r = none ∧ e = ⟨.missing, f, k⟩ := by
  cases r <;> simp [need, eq_comm]

theorem range_ok {v : S64} {w : Nat} {f : InputField} {k : BitVec 4} {x : BitVec w} :
    range v w f k = .ok x ↔ v.toInt = (x.toNat : Int) := by
  have hx := x.isLt
  unfold range
  split
  · rename_i h
    rw [Except.ok.injEq]
    constructor
    · rintro rfl
      rw [BitVec.toNat_ofInt]
      have : ((2 ^ w : Nat) : Int) = 2 ^ w := by push_cast; rfl
      rw [this, Int.emod_eq_of_lt h.1 h.2]
      omega
    · intro hv
      rw [hv]
      simp
  · rename_i h
    constructor
    · intro h'; simp at h'
    · intro hv
      exfalso
      apply h
      rw [hv]
      refine ⟨by omega, ?_⟩
      have : ((2 ^ w : Nat) : Int) = 2 ^ w := by push_cast; rfl
      omega

theorem range_error {v : S64} {w : Nat} {f : InputField} {k : BitVec 4} {e : CmdError} :
    range v w f k = .error e ↔ ¬(0 ≤ v.toInt ∧ v.toInt < 2 ^ w) ∧ e = ⟨.range, f, k⟩ := by
  unfold range
  split <;> simp_all [eq_comm]

/-- `Need` and `Range` together succeed exactly on a register that holds the field's value. -/
theorem needRange_ok {r : Option S64} {w : Nat} {f : InputField} {k : BitVec 4} {x : BitVec w} :
    needRange r w f k = .ok x ↔ ∃ v, r = some v ∧ v.toInt = (x.toNat : Int) := by
  simp only [needRange, except_bind_ok, need_ok, range_ok]

theorem needRange_error {r : Option S64} {w : Nat} {f : InputField} {k : BitVec 4}
    {e : CmdError} :
    needRange r w f k = .error e ↔ (r = none ∧ e = ⟨.missing, f, k⟩)
      ∨ ∃ v, r = some v ∧ ¬(0 ≤ v.toInt ∧ v.toInt < 2 ^ w) ∧ e = ⟨.range, f, k⟩ := by
  simp only [needRange, except_bind_error, need_error, need_ok, range_error]

/-- The entries read are the registers' values, in order. -/
theorem readCsrcs_ok {regs : Vector (Option S64) 15} {k n : Nat} {l : List Word} :
    readCsrcs regs k n = .ok l ↔ l.length = n ∧ ∀ j (h : j < l.length), ∃ v,
      (regs[k + j]?).join = some v ∧ v.toInt = ((l[j]).toNat : Int) := by
  induction n generalizing k l with
  | zero =>
    constructor
    · intro h
      simp only [readCsrcs, Except.ok.injEq] at h
      subst h
      simp
    · rintro ⟨h, -⟩
      simp [readCsrcs, List.length_eq_zero_iff.mp h]
  | succ n ih =>
    simp only [readCsrcs, except_bind_ok, needRange_ok, pure, Except.pure, Except.ok.injEq, ih]
    constructor
    · rintro ⟨x, ⟨v, hv, hx⟩, rest, ⟨hl, hr⟩, rfl⟩
      refine ⟨by simp [hl], ?_⟩
      intro j hj
      cases j with
      | zero => exact ⟨v, by simpa using hv, hx⟩
      | succ j =>
        have := hr j (by simpa using hj)
        simpa [Nat.add_assoc, Nat.add_comm 1 j] using this
    · rintro ⟨hl, hr⟩
      cases l with
      | nil => simp at hl
      | cons x rest =>
        refine ⟨x, hr 0 (by simp), rest, ⟨by simpa using hl, ?_⟩, rfl⟩
        intro j hj
        have := hr (j + 1) (by simpa using hj)
        simpa [Nat.add_assoc, Nat.add_comm 1 j] using this

/-- An error in the entries names CSRCS, with class VALIDATION and the index of an entry read. -/
theorem readCsrcs_error {regs : Vector (Option S64) 15} {k n : Nat} {e : CmdError}
    (h : readCsrcs regs k n = .error e) :
    e.code.cls = .validation ∧ e.field = .csrcs ∧ ∃ j, k ≤ j ∧ j < k + n
      ∧ e.index = BitVec.ofNat 4 j := by
  induction n generalizing k with
  | zero => simp [readCsrcs] at h
  | succ n ih =>
    simp only [readCsrcs, except_bind_error] at h
    rcases h with h | ⟨x, -, h | ⟨r, -, h⟩⟩
    · rcases needRange_error.mp h with ⟨-, rfl⟩ | ⟨v, -, -, rfl⟩ <;>
        exact ⟨rfl, rfl, k, le_refl _, by omega, rfl⟩
    · obtain ⟨h1, h2, j, h3, h4, h5⟩ := ih h
      exact ⟨h1, h2, j, by omega, by omega, h5⟩
    · simp [pure, Except.pure] at h

theorem readCsrcList_ok {e : EIR} {l : List Word} :
    readCsrcList e = .ok l ↔ e.csrcN.value.toInt = (l.length : Int) ∧ l.length ≤ 15
      ∧ ∀ j (h : j < l.length), ∃ v,
        (e.csrc[j]?).join = some v ∧ v.toInt = ((l[j]).toNat : Int) := by
  unfold readCsrcList
  simp only
  split
  · rename_i h
    rw [readCsrcs_ok]
    simp only [Nat.zero_add]
    constructor
    · rintro ⟨h1, h2⟩; exact ⟨by omega, by omega, h2⟩
    · rintro ⟨h1, h2, h3⟩; exact ⟨by omega, h3⟩
  · rename_i h
    constructor
    · intro h'; simp at h'
    · rintro ⟨h1, h2, -⟩; omega

theorem readCsrcList_error {e : EIR} {err : CmdError} (h : readCsrcList e = .error err) :
    err.code.cls = .validation ∧ err.field = .csrcs ∧ err.index.toNat ≤ 14 := by
  unfold readCsrcList at h
  simp only at h
  split at h
  · rename_i hn
    obtain ⟨h1, h2, j, -, h4, h5⟩ := readCsrcs_error h
    refine ⟨h1, h2, ?_⟩
    rw [h5, BitVec.toNat_ofNat, Nat.mod_eq_of_lt (by omega)]
    omega
  · simp only [Except.error.injEq] at h
    subst h
    exact ⟨rfl, rfl, by decide⟩

end Sys2Proof.Machine
end

