-- ==== Sys2Proof/Laws/Decoder.lean ====
section
/-! SUPPORT. DEC: what each section's parse answers, and everything execDec can do (41_decoder.md
R130, R134 to R136). -/

namespace Sys2Proof.Machine

/-- Entry k of the CSRC table. -/
theorem csrcTable_get (s : Bytes) (cur cc : Nat) (k : Fin 15) :
    (csrcTable s cur cc)[k]
      = if k.val < cc then BitVec.ofNat 32 (rdBE s (cur + 4 * k.val) 4) else 0 := by
  simp [csrcTable]

/-- A big-endian number of n bytes is below `256^n`. -/
theorem rdBE_lt (s : Bytes) (off n : Nat) : rdBE s off n < 256 ^ n := by
  have key : ∀ (l : Bytes) (acc : Nat),
      l.foldl (fun a b => a * 256 + b.toNat) acc < (acc + 1) * 256 ^ l.length := by
    intro l
    induction l with
    | nil => intro acc; simp
    | cons b l ih =>
      intro acc
      refine lt_of_lt_of_le (ih _) ?_
      have hb := b.isLt
      rw [List.length_cons, Nat.pow_succ', ← Nat.mul_assoc]
      exact Nat.mul_le_mul_right _ (by show acc * 256 + b.toNat + 1 ≤ _; omega)
  have h := key (memRead s off n) 0
  refine lt_of_lt_of_le h ?_
  rw [Nat.zero_add, Nat.one_mul]
  exact Nat.pow_le_pow_right (by omega) (by simp [memRead]; omega)

/-- The parse of an extension: absent and empty, or in full inside the sequence. -/
theorem parseExt_ok {s : Bytes} {cur : Nat} {x : Bool} {r : ParsedExt} :
    parseExt s cur x = .ok r ↔
      (x = false ∧ r = ⟨0, 0, [], cur⟩)
        ∨ (x = true ∧ 4 ≤ s.length - cur ∧ 4 * rdBE s (cur + 2) 2 ≤ s.length - (cur + 4)
          ∧ r = ⟨BitVec.ofNat 16 (rdBE s cur 2), BitVec.ofNat 16 (rdBE s (cur + 2) 2),
              slice s (cur + 4) (cur + 4 + 4 * rdBE s (cur + 2) 2),
              cur + 4 + 4 * rdBE s (cur + 2) 2⟩) := by
  cases x
  · simp [parseExt, eq_comm]
  · simp only [parseExt, if_true]
    split
    · simp; omega
    · split
      · simp; omega
      · simp only [Except.ok.injEq, Bool.true_eq_false, false_and, false_or, true_and]
        constructor
        · rintro rfl; exact ⟨by omega, by omega, rfl⟩
        · rintro ⟨-, -, rfl⟩; rfl

theorem parseExt_error {s : Bytes} {cur : Nat} {x : Bool} {e : CmdError} :
    parseExt s cur x = .error e ↔ x = true
      ∧ (s.length - cur < 4 ∨ s.length - (cur + 4) < 4 * rdBE s (cur + 2) 2)
      ∧ e = ⟨.shortExtension, .none, 0⟩ := by
  cases x
  · simp [parseExt]
  · simp only [parseExt, if_true, true_and]
    split
    · simp_all [eq_comm]
    · split <;> simp_all [eq_comm]

theorem parsePayload_ok {s : Bytes} {cur : Nat} {p : Bool} {b : Bytes} :
    parsePayload s cur p = .ok b ↔
      (p = false ∧ b = slice s cur s.length)
        ∨ (p = true ∧ 1 ≤ (byteAt s (s.length - 1)).toNat
          ∧ (byteAt s (s.length - 1)).toNat ≤ s.length - cur
          ∧ b = slice s cur (s.length - (byteAt s (s.length - 1)).toNat)) := by
  cases p
  · simp [parsePayload, eq_comm]
  · simp only [parsePayload, if_true]
    split
    · simp_all [eq_comm]
    · rename_i h
      simp only [reduceCtorEq, Bool.true_eq_false, false_and, true_and, false_or, false_iff]
      rintro ⟨h1, h2, -⟩
      exact h ⟨h1, h2⟩

theorem parsePayload_error {s : Bytes} {cur : Nat} {p : Bool} {e : CmdError} :
    parsePayload s cur p = .error e ↔ p = true
      ∧ ¬(1 ≤ (byteAt s (s.length - 1)).toNat
          ∧ (byteAt s (s.length - 1)).toNat ≤ s.length - cur)
      ∧ e = ⟨.badPadding, .none, 0⟩ := by
  cases p
  · simp [parsePayload]
  · simp only [parsePayload, if_true, true_and]
    split <;> simp_all [eq_comm]

/-- Everything a decoded frame is. -/
theorem decodeFrame_ok {s : Bytes} {d : DFR} :
    decodeFrame s = .ok d ↔
      12 ≤ s.length ∧ 4 * ((byteAt s 0).extractLsb' 0 4).toNat ≤ s.length - 12
        ∧ ∃ ext pay,
          parseExt s (12 + 4 * ((byteAt s 0).extractLsb' 0 4).toNat) ((byteAt s 0).getLsbD 4)
              = .ok ext
            ∧ parsePayload s ext.cur ((byteAt s 0).getLsbD 5) = .ok pay
            ∧ d = { valid := true, version := (byteAt s 0).extractLsb' 6 2
                    p := (byteAt s 0).getLsbD 5, x := (byteAt s 0).getLsbD 4
                    cc := (byteAt s 0).extractLsb' 0 4, m := (byteAt s 1).getLsbD 7
                    pt := (byteAt s 1).extractLsb' 0 7, seq := BitVec.ofNat 16 (rdBE s 2 2)
                    ts := BitVec.ofNat 32 (rdBE s 4 4), ssrc := BitVec.ofNat 32 (rdBE s 8 4)
                    csrc := csrcTable s 12 ((byteAt s 0).extractLsb' 0 4).toNat
                    xprofile := ext.profile, xlen := ext.words, xblock := ext.block
                    payload := pay } := by
  unfold decodeFrame
  simp only
  split
  · rename_i h
    exact ⟨fun h' => by simp at h', fun h' => by omega⟩
  · split
    · rename_i h
      exact ⟨fun h' => by simp at h', fun h' => by omega⟩
    · rename_i h1 h2
      simp only [except_bind_ok, pure, Except.pure, Except.ok.injEq]
      constructor
      · rintro ⟨ext, he, pay, hp, rfl⟩
        exact ⟨by omega, by omega, ext, pay, he, hp, rfl⟩
      · rintro ⟨-, -, ext, pay, he, hp, rfl⟩
        exact ⟨ext, he, pay, hp, rfl⟩

/-- Every error of the parse is of class MALFORMED, with FIELD NONE and INDEX 0. -/
theorem decodeFrame_error {s : Bytes} {e : CmdError} (h : decodeFrame s = .error e) :
    e.code.cls = .malformed ∧ e.field = .none ∧ e.index = 0 := by
  unfold decodeFrame at h
  simp only at h
  split at h
  · simp only [Except.error.injEq] at h; subst h; exact ⟨rfl, rfl, rfl⟩
  · split at h
    · simp only [Except.error.injEq] at h; subst h; exact ⟨rfl, rfl, rfl⟩
    · simp only [except_bind_error, pure, Except.pure, reduceCtorEq, and_false, exists_false,
        or_false] at h
      rcases h with h | ⟨ext, -, h⟩
      · obtain ⟨-, -, rfl⟩ := parseExt_error.mp h; exact ⟨rfl, rfl, rfl⟩
      · obtain ⟨-, -, rfl⟩ := parsePayload_error.mp h; exact ⟨rfl, rfl, rfl⟩

/-- Everything DEC can do: the frame is committed to DFR, or an error of class MALFORMED is reported
and DFR is reset. -/
theorem execDec_cases (s : State) :
    (∃ d, decodeFrame s.ibuf = .ok d
        ∧ execDec s = .next { s with status := statusOk 2, dfr := d })
      ∨ ∃ e, decodeFrame s.ibuf = .error e
        ∧ e.code.cls = .malformed ∧ e.field = .none ∧ e.index = 0
        ∧ execDec s = .next { s with status := statusError 2 e, dfr := DFR.reset } := by
  unfold execDec
  cases h : decodeFrame s.ibuf with
  | ok d => exact .inl ⟨d, rfl, rfl⟩
  | error e =>
    obtain ⟨h1, h2, h3⟩ := decodeFrame_error h
    exact .inr ⟨e, rfl, h1, h2, h3, by simp only [completeError_malformed _ _ _ h1]⟩

end Sys2Proof.Machine
end

