-- ==== Sys2Proof/Laws/Encoder.lean ====
section
/-! SUPPORT. ENC: what validation answers, the length of the frame, and everything execEnc can do
(40_encoder.md R100, R101, R109). -/

namespace Sys2Proof.Machine

/-- The extension input read is E_XPROFILE and E_XBLOCK, and only when E_XPRESENT = 1. -/
theorem readExt_ok {e : EIR} {x : Option ExtInput} :
    readExt e = .ok x ↔ (e.xpresent.value = false ∧ x = none)
      ∨ (e.xpresent.value = true ∧ ∃ y, x = some y ∧ e.xblock = some y.block
        ∧ ceildiv4 y.block.length ≤ 65535
        ∧ ∃ v, e.xprofile = some v ∧ v.toInt = (y.profile.toNat : Int)) := by
  unfold readExt
  cases hx : e.xpresent.value with
  | false => simp [eq_comm]
  | true =>
    simp only [if_true, except_bind_ok, needRange_ok, need_ok, Bool.true_eq_false, false_and,
      false_or, true_and]
    constructor
    · rintro ⟨p, hp, b, hb, h⟩
      split at h
      · simp at h
      · rename_i hw
        simp only [pure, Except.pure, Except.ok.injEq] at h
        exact ⟨⟨p, b⟩, h.symm, hb, not_lt.mp hw, hp⟩
    · rintro ⟨y, rfl, hb, hw, hp⟩
      refine ⟨y.profile, hp, y.block, hb, ?_⟩
      rw [if_neg (not_lt.mpr hw)]
      rfl

/-- Everything a validated frame is: each field is the value of its register. -/
theorem validate_ok {c : Config} {e : EIR} {f : Frame} :
    validate c e = .ok f ↔
      (∃ v, e.ssrc = some v ∧ v.toInt = (f.ssrc.toNat : Int))
        ∧ (∃ v, e.pt = some v ∧ v.toInt = (f.pt.toNat : Int))
        ∧ e.payload = some f.payload
        ∧ (∃ v, e.seq = some v ∧ v.toInt = (f.seq.toNat : Int))
        ∧ (∃ v, e.ts = some v ∧ v.toInt = (f.ts.toNat : Int))
        ∧ readCsrcList e = .ok f.csrcs
        ∧ e.pad.value.toInt = (f.pad.toNat : Int)
        ∧ readExt e = .ok f.ext
        ∧ e.version.value.toInt = (f.version.toNat : Int)
        ∧ e.marker.value = f.marker
        ∧ f.total ≤ c.obufCap := by
  simp only [validate, except_bind_ok, needRange_ok, need_ok, range_ok]
  constructor
  · rintro ⟨ssrc, h1, pt, h2, pay, h3, seq, h4, ts, h5, cs, h6, pad, h7, ext, h8, ver, h9, h⟩
    split at h
    · simp at h
    · rename_i ht
      simp only [pure, Except.pure, Except.ok.injEq] at h
      subst h
      exact ⟨h1, h2, h3, h4, h5, h6, h7, h8, h9, rfl, not_lt.mp ht⟩
  · rintro ⟨h1, h2, h3, h4, h5, h6, h7, h8, h9, h10, h11⟩
    refine ⟨_, h1, _, h2, _, h3, _, h4, _, h5, _, h6, _, h7, _, h8, _, h9, ?_⟩
    rw [h10, if_neg (not_lt.mpr h11)]
    rfl

/-- Every error of validation is of class VALIDATION, never names MARKER, and its index is a CSRC
index. -/
theorem validate_error {c : Config} {e : EIR} {err : CmdError} (h : validate c e = .error err) :
    err.code.cls = .validation ∧ err.field ≠ .marker ∧ err.index.toNat ≤ 14 := by
  have hn {r w f x} (hf : f ≠ .marker) (h : needRange r w f = .error x) :
      x.code.cls = .validation ∧ x.field ≠ .marker ∧ x.index.toNat ≤ 14 := by
    rcases needRange_error.mp h with ⟨-, rfl⟩ | ⟨v, -, -, rfl⟩ <;> exact ⟨rfl, hf, Nat.zero_le _⟩
  simp only [validate, except_bind_error] at h
  rcases h with h | ⟨ssrc, -, h | ⟨pt, -, h | ⟨pay, -, h | ⟨seq, -, h | ⟨ts, -, h | ⟨cs, -, h |
    ⟨pad, -, h | ⟨ext, -, h | ⟨ver, -, h⟩⟩⟩⟩⟩⟩⟩⟩⟩
  · exact hn (by decide) h
  · exact hn (by decide) h
  · obtain ⟨-, rfl⟩ := need_error.mp h; exact ⟨rfl, by decide, by decide⟩
  · exact hn (by decide) h
  · exact hn (by decide) h
  · obtain ⟨h1, h2, h3⟩ := readCsrcList_error h
    exact ⟨h1, by rw [h2]; decide, h3⟩
  · obtain ⟨-, rfl⟩ := range_error.mp h; exact ⟨rfl, by decide, by decide⟩
  · unfold readExt at h
    split at h
    · simp only [except_bind_error] at h
      rcases h with h | ⟨p, -, h | ⟨b, -, h⟩⟩
      · exact hn (by decide) h
      · obtain ⟨-, rfl⟩ := need_error.mp h; exact ⟨rfl, by decide, by decide⟩
      · split at h
        · simp only [Except.error.injEq] at h; subst h; exact ⟨rfl, by decide, by decide⟩
        · simp [pure, Except.pure] at h
    · simp at h
  · obtain ⟨-, rfl⟩ := range_error.mp h; exact ⟨rfl, by decide, by decide⟩
  · split at h
    · simp only [Except.error.injEq] at h; subst h; exact ⟨rfl, by decide, by decide⟩
    · simp [pure, Except.pure] at h

@[simp] theorem Frame.header_length (f : Frame) : f.header.length = 12 := by
  simp [Frame.header]

@[simp] theorem csrcBytes_length (l : List Word) : (csrcBytes l).length = 4 * l.length := by
  induction l with
  | nil => rfl
  | cons x l ih =>
    simp only [csrcBytes] at ih
    simp [csrcBytes, ih]
    omega

@[simp] theorem extBytes_length (x : Option ExtInput) : (extBytes x).length = extLength x := by
  cases x with
  | none => rfl
  | some x =>
    have := ceildiv4_bounds x.block.length
    simp [extBytes, extLength]
    omega

@[simp] theorem padBytes_length (n : BitVec 8) : (padBytes n).length = n.toNat := by
  unfold padBytes
  split
  · rename_i h; simp [h]
  · rename_i h
    have : n.toNat ≠ 0 := fun h0 => h (BitVec.eq_of_toNat_eq (by simpa using h0))
    simp
    omega

/-- The frame's byte sequence has exactly the length R109 gives. -/
theorem Frame.bytes_length (f : Frame) : f.bytes.length = f.total := by
  simp [Frame.bytes, Frame.total]
  omega

/-- Everything ENC can do: a validated frame is written to OBUF and EIR is consumed, or an error of
class VALIDATION is reported, OBUF is emptied and EIR is consumed. -/
theorem execEnc_cases (s : State) :
    (∃ f, validate s.cfg s.eir = .ok f
        ∧ execEnc s = .next { s with status := statusOk 1, obuf := f.bytes, eir := EIR.reset })
      ∨ ∃ e, validate s.cfg s.eir = .error e
        ∧ e.code.cls = .validation ∧ e.field ≠ .marker ∧ e.index.toNat ≤ 14
        ∧ execEnc s
          = .next { s with status := statusError 1 e, obuf := [], eir := EIR.reset } := by
  unfold execEnc
  cases h : validate s.cfg s.eir with
  | ok f => exact .inl ⟨f, rfl, rfl⟩
  | error e =>
    obtain ⟨h1, h2, h3⟩ := validate_error h
    exact .inr ⟨e, rfl, h1, h2, h3, by simp only [completeError_validation _ _ _ h1]⟩

end Sys2Proof.Machine
end

