-- ==== Sys2Proof/Laws/HostPort.lean ====
section
/-! SUPPORT. The host port and the step: everything a command, a host access and a step can do
(20_memory.md R58, 70_reset_and_hazards.md R221). -/

namespace Sys2Proof.Machine

/-- Every command completes. -/
theorem exec_completes (i : Instr) (s : State) : ∃ t, exec i s = .next t := by
  rcases exec_cases i with ⟨-, h⟩ | ⟨-, h⟩ | ⟨-, -, v, -, h⟩
  · rcases execEnc_cases s with ⟨f, -, h'⟩ | ⟨e, -, -, -, -, h'⟩ <;> exact ⟨_, (h s).trans h'⟩
  · rcases execDec_cases s with ⟨f, -, h'⟩ | ⟨e, -, -, -, -, h'⟩ <;> exact ⟨_, (h s).trans h'⟩
  · exact ⟨_, h s⟩

/-- Issuing a word: the decoded command runs, or the word's error completes. -/
theorem issue_cases (w : Word) (s : State) :
    (∃ i, decode w = .ok i ∧ issue w s = exec i s)
      ∨ ∃ e, decode w = .error e
        ∧ issue w s = .next (completeError (w.extractLsb' 0 4) (rejectError e) s) := by
  unfold issue
  cases decode w with
  | ok i => exact .inl ⟨i, rfl, rfl⟩
  | error e => exact .inr ⟨e, rfl, rfl⟩

/-- Every command word completes. -/
theorem issue_completes (w : Word) (s : State) : ∃ t, issue w s = .next t := by
  rcases issue_cases w s with ⟨i, -, h⟩ | ⟨e, -, h⟩
  · rw [h]; exact exec_completes i s
  · exact ⟨_, h⟩

/-- A host write that has a step names a register and is admitted; it issues a command or sets the
register. -/
theorem hostWrite_next {n : BitVec 8} {v : HostValue} {s t : State} :
    hostWrite n v s = .next t ↔ ∃ r, regOfNumber n = some r ∧ refuseWrite s.cfg r v = none
      ∧ ((r = .cmd ∧ issue (hostWord v) s = .next t) ∨ (r ≠ .cmd ∧ writeReg r v s = t)) := by
  unfold hostWrite
  cases regOfNumber n with
  | none => simp
  | some r =>
    cases h : refuseWrite s.cfg r v with
    | some why => simp [h]
    | none =>
      by_cases hr : r = .cmd
      · subst hr; simp [h]
      · simp [h, hr]

/-- A host write has a step or is refused. -/
theorem hostWrite_total (n : BitVec 8) (v : HostValue) (s : State) :
    (∃ t, hostWrite n v s = .next t) ∨ ∃ why, hostWrite n v s = .refused why := by
  unfold hostWrite
  cases regOfNumber n with
  | none => exact .inr ⟨_, rfl⟩
  | some r =>
    cases h : refuseWrite s.cfg r v with
    | some why => exact .inr ⟨why, by simp [h]⟩
    | none =>
      by_cases hr : r = .cmd
      · subst hr
        obtain ⟨t, ht⟩ := issue_completes (hostWord v) s
        exact .inl ⟨t, by simp [h, ht]⟩
      · exact .inl ⟨writeReg r v s, by simp [h, hr]⟩

/-- A host read that has a step returns the register's value and changes nothing else. -/
theorem hostRead_next {n : BitVec 8} {s t : State} :
    hostRead n s = .next t ↔ ∃ r v, regOfNumber n = some r ∧ readReg r s = some v
      ∧ s.addReturned v = t := by
  unfold hostRead
  cases regOfNumber n with
  | none => simp
  | some r => cases h : readReg r s <;> simp [h]

/-- The state a step leaves: unchanged with nothing pending, else what the oldest action gives. -/
theorem step_cases (s : State) :
    (s.pending = [] ∧ step s = .next s)
      ∨ ∃ a rest, s.pending = a :: rest ∧ step s = perform a (s.setPending rest) := by
  unfold step performNext
  cases h : s.pending with
  | nil => exact .inl ⟨rfl, rfl⟩
  | cons a rest => exact .inr ⟨a, rest, rfl, rfl⟩

/-- A write to a register other than CMD changes EIR or IBUF alone. -/
theorem writeReg_eq (r : Reg) (v : HostValue) (s : State) :
    (∃ e, writeReg r v s = { s with eir := e } ∧ e = writeEir r v s.eir)
      ∨ (r = .ibuf ∧ writeReg r v s = { s with ibuf := hostBytes v }) := by
  cases r
  case ibuf => exact .inr ⟨rfl, rfl⟩
  all_goals exact .inl ⟨_, rfl, rfl⟩

end Sys2Proof.Machine
end

