-- ==== Sys2Proof/Laws/PerInstr.lean ====
section
/-! SUPPORT. Per instruction: the encoding keeps the reserved bits 31:8 at 0 and puts OP and FID in
their places (30_encoding.md R70). -/

namespace Sys2Proof.Laws.WordFields

/-- The three fields of the command word of `i`. -/
def Statement (i : Instr) : Prop :=
  CmdFields.ofWord (encode i) = { op := i.op, fid := i.fid, rsvd := 0 }

theorem enc : Statement .enc := by unfold Statement; decide
theorem dec : Statement .dec := by unfold Statement; decide
theorem getVersion : Statement .getVersion := by unfold Statement; decide
theorem getPadding : Statement .getPadding := by unfold Statement; decide
theorem getExtension : Statement .getExtension := by unfold Statement; decide
theorem getMarker : Statement .getMarker := by unfold Statement; decide
theorem getPayloadType : Statement .getPayloadType := by unfold Statement; decide
theorem getSequenceNumber : Statement .getSequenceNumber := by unfold Statement; decide
theorem getTimestamp : Statement .getTimestamp := by unfold Statement; decide
theorem getSsrc : Statement .getSsrc := by unfold Statement; decide
theorem getCsrcs : Statement .getCsrcs := by unfold Statement; decide
theorem getExtensionHeader : Statement .getExtensionHeader := by unfold Statement; decide
theorem getPayload : Statement .getPayload := by unfold Statement; decide

end Sys2Proof.Laws.WordFields
end

