-- ==== Sys2Proof/Tests/Slice0.lean ====
section
/-! SUPPORT. The model's own tests. Every expected result is a vector of spec/95_test_vectors.md, named
in the test's comment, or a word written out from the encoding tables R70, R71 and R73; the last part
gives, for every obligation with hypotheses, a state and operands that meet them all. -/

namespace Sys2Proof.Tests

open Sys2Proof.Machine

/-! Helpers: one small state per vector, and the outcome as plain data. -/

/-- The next state, when there is one. -/
def after (o : Host.Outcome State Fault Refusal) : Option State :=
  match o with
  | .next t => some t
  | .fault _ => none
  | .refused _ => none

/-- The reason of a refusal. -/
def refusal (o : Host.Outcome State Fault Refusal) : Option Refusal :=
  match o with
  | .next _ => none
  | .fault _ => none
  | .refused r => some r

/-- OBUF and STATUS after a command. -/
def encResult (o : Host.Outcome State Fault Refusal) : Option (Bytes × Word) :=
  (after o).map fun t => (t.obuf, t.status)

/-- RES and STATUS after a command. -/
def getResult (o : Host.Outcome State Fault Refusal) : Option (Res × Word) :=
  (after o).map fun t => (t.res, t.status)

/-- STATUS after a command. -/
def statusAfter (o : Host.Outcome State Fault Refusal) : Option Word :=
  (after o).map (·.status)

/-- Reset, then EIR as given. -/
def withEir (e : EIR) : State := { State.reset with eir := e }

/-- Reset, then IBUF as given. -/
def withIbuf (b : Bytes) : State := { State.reset with ibuf := b }

/-- Reset, then DFR as given. -/
def withDfr (d : DFR) : State := { State.reset with dfr := d }

/-- Reset, with host actions pending. -/
def withPending (l : List HostAction) : State := { State.reset with pending := l }

/-- The "base" inputs of the failing ENC vectors. -/
def eirBase : EIR :=
  { EIR.reset with
    ssrc := some 4711, pt := some 42, payload := some [0x31, 0x32, 0x33, 0x34, 0x35]
    seq := some 23, ts := some 2012 }

/-- The inputs of vector S1. -/
def eirS1 : EIR :=
  { eirBase with
    csrcN := ⟨2, true⟩
    csrc := ((Vector.replicate 15 none).set 0 (some 17)).set 1 (some 4)
    version := ⟨1, true⟩ }

/-- The 25 bytes of vector S1. -/
def frameS1 : Bytes :=
  [0x42, 0x2A, 0x00, 0x17, 0x00, 0x00, 0x07, 0xDC, 0x00, 0x00, 0x12, 0x67, 0x00, 0x00, 0x00, 0x11,
    0x00, 0x00, 0x00, 0x04, 0x31, 0x32, 0x33, 0x34, 0x35]

/-- The inputs of vector E11. -/
def eirE11 : EIR :=
  { EIR.reset with
    ssrc := some 5, pt := some 8, payload := some [0x5A], seq := some 9, ts := some 7
    marker := ⟨true, true⟩, pad := ⟨4, true⟩, xpresent := ⟨true, true⟩
    xprofile := some 0x1000, xblock := some [0xCA, 0xFE, 0xBA, 0xBE, 0x01]
    csrcN := ⟨1, true⟩, csrc := (Vector.replicate 15 none).set 0 (some 0xDEADBEEF) }

/-- The 33 bytes of vector E11. -/
def frameE11 : Bytes :=
  [0xB1, 0x88, 0x00, 0x09, 0x00, 0x00, 0x00, 0x07, 0x00, 0x00, 0x00, 0x05, 0xDE, 0xAD, 0xBE, 0xEF,
    0x10, 0x00, 0x00, 0x02, 0xCA, 0xFE, 0xBA, 0xBE, 0x01, 0x00, 0x00, 0x00, 0x5A, 0x00, 0x00, 0x00,
    0x04]

/-- The frame of vector D1 (DFR_S1). -/
def dfrS1 : DFR :=
  { DFR.reset with
    valid := true, version := 1, cc := 2, pt := 42, seq := 23, ts := 2012, ssrc := 4711
    csrc := ((Vector.replicate 15 0).set 0 17).set 1 4
    payload := [0x31, 0x32, 0x33, 0x34, 0x35] }

/-- The frame of vector D19. -/
def dfrD19 : DFR :=
  { DFR.reset with
    valid := true, version := 3, m := true, pt := 127, seq := 65535, ts := 4294967295
    ssrc := 4294967295 }

/-- The frame of vector D20. -/
def dfrD20 : DFR :=
  { valid := true, version := 2, p := true, x := true, cc := 1, m := true, pt := 8, seq := 9
    ts := 7, ssrc := 5, csrc := (Vector.replicate 15 0).set 0 0xDEADBEEF, xprofile := 0x1000
    xlen := 2, xblock := [0xCA, 0xFE, 0xBA, 0xBE, 0x01, 0x00, 0x00, 0x00], payload := [0x5A] }

/-! Well-formedness: one ill-formed term for each check. -/

theorem test_wf_refuses_illegal_op : CmdFields.wf { op := 4, fid := 0, rsvd := 0 } = false := by
  decide
theorem test_wf_refuses_reserved : CmdFields.wf { op := 3, fid := 0, rsvd := 1 } = false := by
  decide
theorem test_wf_refuses_fid_of_enc : CmdFields.wf { op := 1, fid := 1, rsvd := 0 } = false := by
  decide
theorem test_wf_refuses_unnamed_field : CmdFields.wf { op := 3, fid := 11, rsvd := 0 } = false := by
  decide
theorem test_wf_refuses_small_obuf : Config.wf { Config.reference with obufCap := 11 } = false := by
  decide
theorem test_wf_admits : CmdFields.wf { op := 3, fid := 10, rsvd := 0 } = true
    ∧ Config.wf Config.reference = true := by decide

/-! Decoding: each word written out as RSVD (24 bits), FID, OP. -/

theorem test_decode_enc :
    decode (0b000000000000000000000000#24 ++ 0b0000#4 ++ 0b0001#4) = .ok .enc := by decide
theorem test_decode_dec :
    decode (0b000000000000000000000000#24 ++ 0b0000#4 ++ 0b0010#4) = .ok .dec := by decide
theorem test_decode_getVersion :
    decode (0b000000000000000000000000#24 ++ 0b0000#4 ++ 0b0011#4) = .ok .getVersion := by decide
theorem test_decode_getPadding :
    decode (0b000000000000000000000000#24 ++ 0b0001#4 ++ 0b0011#4) = .ok .getPadding := by decide
theorem test_decode_getExtension :
    decode (0b000000000000000000000000#24 ++ 0b0010#4 ++ 0b0011#4) = .ok .getExtension := by decide
theorem test_decode_getMarker :
    decode (0b000000000000000000000000#24 ++ 0b0011#4 ++ 0b0011#4) = .ok .getMarker := by decide
theorem test_decode_getPayloadType :
    decode (0b000000000000000000000000#24 ++ 0b0100#4 ++ 0b0011#4) = .ok .getPayloadType := by
  decide
theorem test_decode_getSequenceNumber :
    decode (0b000000000000000000000000#24 ++ 0b0101#4 ++ 0b0011#4) = .ok .getSequenceNumber := by
  decide
theorem test_decode_getTimestamp :
    decode (0b000000000000000000000000#24 ++ 0b0110#4 ++ 0b0011#4) = .ok .getTimestamp := by decide
theorem test_decode_getSsrc :
    decode (0b000000000000000000000000#24 ++ 0b0111#4 ++ 0b0011#4) = .ok .getSsrc := by decide
theorem test_decode_getCsrcs :
    decode (0b000000000000000000000000#24 ++ 0b1000#4 ++ 0b0011#4) = .ok .getCsrcs := by decide
theorem test_decode_getExtensionHeader :
    decode (0b000000000000000000000000#24 ++ 0b1001#4 ++ 0b0011#4) = .ok .getExtensionHeader := by
  decide
theorem test_decode_getPayload :
    decode (0b000000000000000000000000#24 ++ 0b1010#4 ++ 0b0011#4) = .ok .getPayload := by decide

/-- Vectors K5, K7, K10 and K14. -/
theorem test_decode_rejects :
    decode 0xFFFFFFFF = .error .illegalOp ∧ decode 0x00000011 = .error .reservedBits
      ∧ decode 0x00000103 = .error .reservedBits
      ∧ decode 0x000000C3 = .error (.unknownField 12) := by decide

/-! ENC and DEC. -/

/-- Vectors E1 (S1, the source's literal scenario) and E11 (every section at once). -/
theorem test_enc_writes_frames :
    encResult (exec .enc (withEir eirS1)) = some (frameS1, 0x00100001)
      ∧ encResult (exec .enc (withEir eirE11)) = some (frameE11, 0x00100001) := by decide

/-- Vectors V1 (PT = 200 is RANGE, PT) and V6 (the first unwritten CSRC entry is named). -/
theorem test_enc_rejects :
    encResult (exec .enc (withEir { eirBase with pt := some 200 })) = some ([], 0x00102012)
      ∧ encResult (exec .enc (withEir { eirBase with
          csrcN := ⟨3, true⟩, csrc := (Vector.replicate 15 none).set 0 (some 1) }))
        = some ([], 0x00116042) := by decide

/-- Vectors D1 and D20. -/
theorem test_dec_reads_frames :
    (after (exec .dec (withIbuf frameS1))).map (fun t => (t.dfr, t.status))
        = some (dfrS1, 0x00200001)
      ∧ (after (exec .dec (withIbuf frameE11))).map (fun t => (t.dfr, t.status))
        = some (dfrD20, 0x00200001) := by decide

/-- Vectors D6 (an extension header cut short) and D21 (the padding count cannot reach back into the
extension). -/
theorem test_dec_rejects :
    (after (exec .dec (withIbuf [0x90, 0x60, 0x00, 0x01, 0x00, 0x00, 0x00, 0xA0, 0x00, 0x00, 0x00,
        0x01, 0xBE, 0xDE]))).map (fun t => (t.dfr, t.status)) = some (DFR.reset, 0x00200304)
      ∧ statusAfter (exec .dec (withIbuf [0xB0, 0x00, 0x00, 0x00, 0x00, 0x00, 0x00, 0x00, 0x00,
        0x00, 0x00, 0x00, 0x00, 0x01, 0x00, 0x00, 0x05])) = some 0x00200404 := by decide

/-! GET: vectors G1 to G22, and the two errors. -/

/-- Vector G16. -/
theorem test_getVersion :
    getResult (exec .getVersion (withDfr dfrD19))
      = some ({ Res.reset with tag := .uint, uint := 3 }, 0x00300001) := by decide
/-- Vector G22. -/
theorem test_getPadding :
    getResult (exec .getPadding (withDfr dfrD20))
      = some ({ Res.reset with tag := .bool, uint := 1 }, 0x00300001) := by decide
/-- Vector G3. -/
theorem test_getExtension :
    getResult (exec .getExtension (withDfr dfrS1))
      = some ({ Res.reset with tag := .bool, uint := 0 }, 0x00300001) := by decide
/-- Vector G17. -/
theorem test_getMarker :
    getResult (exec .getMarker (withDfr dfrD19))
      = some ({ Res.reset with tag := .bool, uint := 1 }, 0x00300001) := by decide
/-- Vector G18. -/
theorem test_getPayloadType :
    getResult (exec .getPayloadType (withDfr dfrD19))
      = some ({ Res.reset with tag := .uint, uint := 127 }, 0x00300001) := by decide
/-- Vector G6. -/
theorem test_getSequenceNumber :
    getResult (exec .getSequenceNumber (withDfr dfrS1))
      = some ({ Res.reset with tag := .uint, uint := 23 }, 0x00300001) := by decide
/-- Vector G19. -/
theorem test_getTimestamp :
    getResult (exec .getTimestamp (withDfr dfrD19))
      = some ({ Res.reset with tag := .uint, uint := 4294967295 }, 0x00300001) := by decide
/-- Vector G8. -/
theorem test_getSsrc :
    getResult (exec .getSsrc (withDfr dfrS1))
      = some ({ Res.reset with tag := .uint, uint := 4711 }, 0x00300001) := by decide
/-- Vector G9. -/
theorem test_getCsrcs :
    getResult (exec .getCsrcs (withDfr dfrS1))
      = some ({ Res.reset with
          tag := .words, count := 2, words := ((Vector.replicate 15 0).set 0 17).set 1 4 },
          0x00300001) := by decide
/-- Vectors G10 and G20. -/
theorem test_getExtensionHeader :
    getResult (exec .getExtensionHeader (withDfr dfrS1))
        = some ({ Res.reset with tag := .extAbsent }, 0x00300001)
      ∧ getResult (exec .getExtensionHeader (withDfr dfrD20))
        = some ({ Res.reset with
            tag := .extPresent, profile := 0x1000
            bytes := [0xCA, 0xFE, 0xBA, 0xBE, 0x01, 0x00, 0x00, 0x00] }, 0x00300001) := by decide
/-- Vector G11. -/
theorem test_getPayload :
    getResult (exec .getPayload (withDfr dfrS1))
      = some ({ Res.reset with tag := .bytes, bytes := [0x31, 0x32, 0x33, 0x34, 0x35] },
          0x00300001) := by decide
/-- Vector G24. -/
theorem test_get_noFrame :
    getResult (exec .getVersion State.reset) = some (Res.reset, 0x00300516) := by decide
/-- Vectors G26 and G27. -/
theorem test_get_unknownField :
    getResult (issue 0x000000B3 (withDfr dfrS1)) = some (Res.reset, 0x00300506)
      ∧ getResult (issue 0x000000F3 State.reset) = some (Res.reset, 0x00300506) := by decide

/-! Illegal words and the host port. -/

/-- Vectors K5 and K12: STATUS alone changes, and EIR is not consumed. -/
theorem test_issue_illegal :
    after (issue 0xFFFFFFFF (withEir eirBase))
        = some { withEir eirBase with status := 0x00F00608 }
      ∧ after (issue 0x80000001 (withEir eirBase))
        = some { withEir eirBase with status := 0x00100618 } := by decide

/-- R58: a write sets the value and the written bit of E_CSRC[14], number 0x1E. -/
theorem test_host_write_csrc :
    (after (hostWrite 0x1E (.int (-1)) State.reset)).map (fun t => t.eir.csrc[14])
      = some (some 0xFFFFFFFFFFFFFFFF) := by decide

/-- R58: each refusal. -/
theorem test_host_refuses :
    refusal (hostWrite 0x01 (.int 0) State.reset) = some (.readOnly .status)
      ∧ refusal (hostRead 0x00 State.reset) = some (.writeOnly .cmd)
      ∧ refusal (hostRead 0x0E State.reset) = some (.noRegister 0x0E)
      ∧ refusal (hostWrite 0x08 (.int 2) State.reset) = some (.notABit .eMarker)
      ∧ refusal (hostWrite 0x20 (.bytes [0])
          { State.reset with cfg := { Config.reference with ibufCap := 0 } })
        = some (.tooLong .ibuf) := by decide

/-- R22, R59: a step issues the word the host wrote (vector V28). -/
theorem test_step_issues :
    statusAfter (step (State.reset.withFetchWord 32 1)) = some 0x00101042 := by decide

/-- R77: two fields of DFR_S1 in order. -/
theorem test_getList :
    (match getList [.payloadType, .marker] (withDfr dfrS1) with
      | .next (_, r) => some r
      | .fault _ => none
      | .refused _ => none)
      = some (.values [{ Res.reset with tag := .uint, uint := 42 },
          { Res.reset with tag := .bool, uint := 0 }]) := by decide

/-! Witnesses: the hypotheses of each obligation that has some, met together. -/

/-- DecodeCmdOfEveryWord, IllegalWordsWriteOnlyStatus, UnknownFieldReportsAndClearsResult: a word at
the boundary of each clause. -/
theorem witness_decode_clauses :
    (let w : Nat := 0xFFFFFFFF; w % 16 ≠ 1 ∧ w % 16 ≠ 2 ∧ w % 16 ≠ 3)
      ∧ (let w : Nat := 0x00000004; w % 16 ≠ 1 ∧ w % 16 ≠ 2 ∧ w % 16 ≠ 3)
      ∧ (let w : Nat := 0x00000103; w % 16 = 3 ∧ w / 256 ≠ 0)
      ∧ (let w : Nat := 0x00000011; w % 16 = 1 ∧ w / 256 = 0 ∧ w / 16 % 16 ≠ 0)
      ∧ (let w : Nat := 0x00000001; w % 16 = 1 ∧ w / 256 = 0 ∧ w / 16 % 16 = 0)
      ∧ (let w : Nat := 0x00000002; w % 16 = 2 ∧ w / 256 = 0 ∧ w / 16 % 16 = 0)
      ∧ (let w : Nat := 0x000000A3; w % 16 = 3 ∧ w / 256 = 0 ∧ w / 16 % 16 ≤ 10)
      ∧ (let w : Nat := 0x000000B3; w % 16 = 3 ∧ w / 256 = 0 ∧ 11 ≤ w / 16 % 16)
      ∧ (let w : Nat := 0x000000F3; w % 16 = 3 ∧ w / 256 = 0 ∧ w / 16 % 16 ≤ 15) := by decide

/-- StepRunsTheIssuedCommand. -/
theorem witness_step_runs :
    (withPending [.write 0x00 (.int (0x000000A3 : Word).toNat)]).pending
        = .write 0x00 (.int (0x000000A3 : Word).toNat) :: []
      ∧ decode 0x000000A3 = .ok .getPayload := by decide

/-- StepPerformsOldestActionOrIdles: both clauses. -/
theorem witness_step_oldest :
    State.reset.pending = [] ∧ (withPending [.reset]).pending = .reset :: [] := by decide

/-- EncWritesTheExactFrame and DecodeOfEncodeReturnsEveryField: the inputs of vector E11, and those of
vector E3 with every fixed field at its bound and no extension. -/
theorem witness_enc_inputs :
    EncInputs eirE11 5 8 9 7 4 2 [0xDEADBEEF] (some (0x1000, [0xCA, 0xFE, 0xBA, 0xBE, 0x01])) [0x5A]
      ∧ encTotal 4 [0xDEADBEEF] (some (0x1000, [0xCA, 0xFE, 0xBA, 0xBE, 0x01])) [0x5A]
        ≤ Config.reference.obufCap
      ∧ encTotal 4 [0xDEADBEEF] (some (0x1000, [0xCA, 0xFE, 0xBA, 0xBE, 0x01])) [0x5A]
        ≤ Config.reference.ibufCap := by
  refine ⟨⟨⟨5, by decide⟩, ⟨8, by decide⟩, rfl, ⟨9, by decide⟩, ⟨7, by decide⟩, by decide, ?_,
    by decide, by decide, ?_, by decide⟩, by decide, by decide⟩
  · intro k h
    obtain rfl : k = 0 := by simpa using h
    exact ⟨0xDEADBEEF, rfl, rfl, show 0xDEADBEEF < 2 ^ 32 by decide⟩
  · rintro p b h
    simp only [Option.some.injEq, Prod.mk.injEq] at h
    obtain ⟨rfl, rfl⟩ := h
    exact ⟨rfl, ⟨0x1000, by decide⟩, rfl, by decide⟩

theorem witness_enc_inputs_at_bounds :
    EncInputs { EIR.reset with
        ssrc := some 0xFFFFFFFF, pt := some 127, payload := some [], seq := some 65535
        ts := some 0xFFFFFFFF, marker := ⟨true, true⟩, version := ⟨3, true⟩, pad := ⟨255, true⟩ }
      4294967295 127 65535 4294967295 255 3 [] none []
      ∧ encTotal 255 [] none [] ≤ Config.reference.obufCap := by
  refine ⟨⟨⟨0xFFFFFFFF, by decide⟩, ⟨127, by decide⟩, rfl, ⟨65535, by decide⟩,
    ⟨0xFFFFFFFF, by decide⟩, by decide, ?_, by decide, by decide, ?_, by decide⟩, by decide⟩
  · intro k h; simp at h
  · rintro p b h; simp at h

/-- EncRaisesTheFirstFailingCheck: both clauses (vectors V29 and E1). -/
theorem witness_enc_checks :
    firstFailure (encChecks Config.reference { eirBase with
        pad := ⟨256, true⟩, csrcN := ⟨16, true⟩ }) = some ⟨.csrcCount, .csrcs, 0⟩
      ∧ firstFailure (encChecks Config.reference eirS1) = none := by decide

/-- EncOutputLengthIsExact: a successful ENC. -/
theorem witness_enc_succeeds :
    ∃ t, exec .enc (withEir eirS1) = .next t ∧ stOk t.status = true := ⟨_, rfl, by decide⟩

/-- SecondEncFindsNoInputs. -/
theorem witness_enc_completes : ∃ t, exec .enc State.reset = .next t := ⟨_, rfl⟩

/-- EncIgnoresUnusedInputs: with E_CSRC_N = 2 entry 2 differs, and the extension is absent. -/
theorem witness_enc_unused :
    (∀ k : Fin 15, (k.val : Int) < eirS1.csrcN.value.toInt → eirS1.csrcN.value.toInt ≤ 15 →
        (eirS1.csrc.set 2 (some (-1)))[k] = eirS1.csrc[k])
      ∧ (eirS1.xpresent.value = true →
        some (70000 : S64) = eirS1.xprofile ∧ some ([] : Bytes) = eirS1.xblock)
      ∧ eirS1.csrc.set 2 (some (-1)) ≠ eirS1.csrc := by decide

/-- DecUnpacksEveryField and DecReportsTheFirstMalformedSection: vectors D1 and D23, and a frame for
each error (D3, D4, D7, D12). -/
theorem witness_dec_checks :
    firstFailure (decChecks frameS1) = none
      ∧ firstFailure (decChecks (0x91 :: List.replicate 13 0)) = some ⟨.shortCsrc, .none, 0⟩
      ∧ firstFailure (decChecks []) = some ⟨.shortHeader, .none, 0⟩
      ∧ firstFailure (decChecks (0x82 :: List.replicate 15 0)) = some ⟨.shortCsrc, .none, 0⟩
      ∧ firstFailure (decChecks [0x90, 0x60, 0, 1, 0, 0, 0, 0xA0, 0, 0, 0, 1, 0xBE, 0xDE, 0, 2, 1, 2,
          3, 4]) = some ⟨.shortExtension, .none, 0⟩
      ∧ firstFailure (decChecks [0xA0, 0x2A, 0, 0x17, 0, 0, 7, 0xDC, 0, 0, 0x12, 0x67, 0x31, 0x32,
          0, 0, 0]) = some ⟨.badPadding, .none, 0⟩ := by decide

/-- DecDependsOnInputAlone: two states that differ outside IBUF. -/
theorem witness_dec_input :
    (withIbuf frameS1).ibuf = { withDfr dfrD20 with ibuf := frameS1 }.ibuf
      ∧ (withIbuf frameS1).dfr ≠ ({ withDfr dfrD20 with ibuf := frameS1 } : State).dfr := by decide

/-- DecIgnoresPaddingFiller: vector D17, and the same frame with the filler 00 00. -/
theorem witness_dec_filler :
    let front : Bytes := [0xA0, 0x2A, 0, 0x17, 0, 0, 7, 0xDC, 0, 0, 0x12, 0x67, 0x31]
    let fill : Bytes := [0xFF, 0xEE]
    let n : Byte := 3
    fill.length + 1 = n.toNat ∧ ([0, 0] : Bytes).length = fill.length
      ∧ (after (exec .dec (withIbuf (front ++ fill ++ [n])))).map
          (fun t => (stOk t.status, t.dfr.p)) = some (true, true) := by decide

/-- The five GetReturns… statements, with X = 0 and with X = 1; GetListReturnsValuesOrFirstError. -/
theorem witness_get_valid :
    (withDfr dfrS1).dfr.valid = true ∧ (withDfr dfrS1).dfr.x = false
      ∧ (withDfr dfrD20).dfr.valid = true ∧ (withDfr dfrD20).dfr.x = true := by decide

/-- GetWithoutFrameReportsNoFrame, GetReadsFrameAndWritesResultOnly, HostWriteToIbufKeepsTheFrame. -/
theorem witness_get :
    isGet .getPayload = true ∧ State.reset.dfr.valid = false
      ∧ State.reset.dfr = (withIbuf frameS1).dfr
      ∧ frameS1.length ≤ State.reset.cfg.ibufCap := by decide

/-- FailedDecLeavesNoFrame, and the five clauses of FailedCommandsWriteOnlyTheirOutputs. -/
theorem witness_failed_commands :
    (∃ t, exec .dec State.reset = .next t ∧ stOk t.status = false)
      ∧ (∃ t, exec .enc State.reset = .next t ∧ stOk t.status = false)
      ∧ (∃ t, exec .getVersion State.reset = .next t ∧ stOk t.status = false)
      ∧ (decode 0x000000B3 = .error (.unknownField 11)
        ∧ ∃ t, issue 0x000000B3 State.reset = .next t ∧ stOk t.status = false)
      ∧ (decode 0x00000000 = .error .illegalOp
        ∧ ∃ t, issue 0x00000000 State.reset = .next t ∧ stOk t.status = false)
      ∧ (decode 0x80000001 = .error .reservedBits
        ∧ ∃ t, issue 0x80000001 State.reset = .next t ∧ stOk t.status = false) :=
  ⟨⟨_, rfl, by decide⟩, ⟨_, rfl, by decide⟩, ⟨_, rfl, by decide⟩,
    ⟨by decide, _, rfl, by decide⟩, ⟨by decide, _, rfl, by decide⟩, ⟨by decide, _, rfl, by decide⟩⟩

/-- AccessesAreAdmittedOrRefused: boundary values of each clause, admitted and not. -/
theorem witness_accesses :
    writeAdmitted Config.reference 0x00 (.int (2 ^ 32 - 1))
      ∧ ¬writeAdmitted Config.reference 0x00 (.int (2 ^ 32))
      ∧ writeAdmitted Config.reference 0x1E (.int (-2 ^ 63))
      ∧ ¬writeAdmitted Config.reference 0x1F (.int 0)
      ∧ writeAdmitted Config.reference 0x0A (.int 1)
      ∧ ¬writeAdmitted Config.reference 0x0A (.int 2)
      ∧ writeAdmitted Config.reference 0x20 (.bytes [])
      ∧ ¬writeAdmitted Config.reference 0x21 (.bytes [])
      ∧ isReadableNumber 0x4E ∧ ¬isReadableNumber 0x4F := by
  simp [writeAdmitted, isS64Number, isReadableNumber]

/-- ScalarWritesSetValueAndWrittenBit, at both bounds; BitAndByteWritesSetTheRegister. -/
theorem witness_writes :
    ((-2 : Int) ^ 63 ≤ -2 ^ 63 ∧ (-2 : Int) ^ 63 < 2 ^ 63)
      ∧ ((-2 : Int) ^ 63 ≤ 2 ^ 63 - 1 ∧ (2 : Int) ^ 63 - 1 < 2 ^ 63)
      ∧ ([] : Bytes).length ≤ State.reset.cfg.payloadCap
      ∧ ([] : Bytes).length ≤ State.reset.cfg.xblockCap
      ∧ frameS1.length ≤ State.reset.cfg.ibufCap := by decide

/-- InstancesShareNothing: the second of two instances, an action with a step and a refused one. -/
theorem witness_instances :
    ([State.reset, withIbuf frameS1] : List State)[1]? = some (withIbuf frameS1)
      ∧ (∃ t, perform .reset (withIbuf frameS1) = .next t)
      ∧ ∃ why, perform (.read 0x00) (withIbuf frameS1) = .refused why :=
  ⟨rfl, ⟨_, rfl⟩, _, rfl⟩

/-- EveryStepKeepsInvariant and the invariant clause of GetReturnsExtension: the state after decoding
vector E11's frame meets the invariant, has an extension, and a step goes on from it. -/
theorem witness_invariant :
    let s : State := { withDfr dfrD20 with
      status := 0x00200001, ibuf := frameE11, pending := [.write 0x00 (.int 0x00000093)] }
    s.inv ∧ s.dfr.x = true ∧ (∃ t, exec .getExtensionHeader s = .next t)
      ∧ ∃ t, step s = .next t := by
  refine ⟨⟨⟨by decide, by decide, by decide, by decide, by decide, by decide, by decide, by decide⟩,
    ⟨rfl, rfl, rfl, rfl, rfl⟩, ⟨by decide, by decide, by decide, by decide⟩,
    ⟨by decide, by decide, by decide, by decide, by decide, by decide⟩, .inr (.inl (by decide))⟩,
    rfl, ⟨_, rfl⟩, _, rfl⟩

/-- ResetMeetsInvariant: the smallest OBUF_CAP. -/
theorem witness_config : Config.wf { Config.reference with obufCap := 12 } = true := by decide

/-- ValidRisesOnlyBySuccessfulDec and RegistersChangeOnlyByTheirWriters: a step that decodes vector
S1's frame. -/
theorem witness_valid_rises :
    let s : State := { withIbuf frameS1 with pending := [.write 0x00 (.int 0x00000002)] }
    s.dfr.valid = false ∧ (after (step s)).map (fun t => (t.dfr.valid, t.pending))
      = some (true, []) := by decide

/-- BigEndianReadsBack: the largest 4-byte value between other bytes. -/
theorem witness_be :
    (0xFFFFFFFF : Nat) < 256 ^ 4 ∧ 3 < 4
      ∧ 1 + 4 ≤ ([0x01, 0xFF, 0xFF, 0xFF, 0xFF, 0x02] : Bytes).length := by decide

end Sys2Proof.Tests
end

section
/-! The words STATUS takes: the fields of a success and of an error report read back, and both are
legal values (10_state.md R23, 60_exceptions.md R190 to R194). -/

namespace Sys2Proof.Machine

section ErrorFields
variable (op : BitVec 4) (e : CmdError)

@[simp] theorem stClass_statusError : stClass (statusError op e) = e.code.cls.val := by
  ext i hi
  interval_cases i <;> simp [stClass, statusError]

@[simp] theorem stCode_statusError : stCode (statusError op e) = e.code.val := by
  ext i hi
  interval_cases i <;> simp [stCode, statusError]

@[simp] theorem stField_statusError : stField (statusError op e) = e.field.val := by
  ext i hi
  interval_cases i <;> simp [stField, statusError]

@[simp] theorem stIndex_statusError : stIndex (statusError op e) = e.index := by
  ext i hi
  interval_cases i <;> simp [stIndex, statusError]

@[simp] theorem stOp_statusError : stOp (statusError op e) = op := by
  ext i hi
  interval_cases i <;> simp [stOp, statusError]

@[simp] theorem stReserved_statusError : stReserved (statusError op e) = 0 := by
  ext i hi
  interval_cases i <;> simp [stReserved, statusError]

end ErrorFields

/-- Every code stands with its class in the table of R191. -/
theorem ErrCode.pair_mem_errorPairs (c : ErrCode) : (c.cls.val, c.val) ∈ errorPairs := by
  cases c <;> decide

theorem ErrClass.val_eq_one {c : ErrClass} : c.val = 1 ↔ c = .validation := by
  cases c <;> decide

theorem InputField.val_le (f : InputField) : f.val.toNat ≤ 11 := by
  cases f <;> decide

theorem InputField.val_eq_seven {f : InputField} : f.val = 7 ↔ f = .marker := by
  cases f <;> decide

theorem statusLegal_statusOk (op : BitVec 4) : statusLegal (statusOk op) := by
  refine .inr (.inl ?_)
  revert op
  decide

/-- An error report is legal when it does not name MARKER, its index is a CSRC index, and outside
VALIDATION it names no input (R192). -/
theorem statusLegal_statusError (op : BitVec 4) {e : CmdError} (hf : e.field ≠ .marker)
    (hi : e.index.toNat ≤ 14)
    (hn : e.code.cls ≠ .validation → e.field = .none ∧ e.index = 0) :
    statusLegal (statusError op e) := by
  refine .inr (.inr ⟨stOk_statusError op e, ?_, ?_, ?_, ?_, ?_, stReserved_statusError op e⟩)
  · simpa using e.code.pair_mem_errorPairs
  · intro hc
    rw [stClass_statusError, Ne, ErrClass.val_eq_one] at hc
    obtain ⟨hfield, hindex⟩ := hn hc
    rw [stField_statusError, stIndex_statusError, hfield, hindex]
    exact ⟨rfl, rfl⟩
  · simpa using e.field.val_le
  · rwa [stField_statusError, Ne, InputField.val_eq_seven]
  · simpa using hi

/-- An error report that names no input is legal, whatever its code. -/
theorem statusLegal_statusError_none (op : BitVec 4) {e : CmdError} (hf : e.field = .none)
    (hi : e.index = 0) : statusLegal (statusError op e) :=
  statusLegal_statusError op (by simp [hf]) (by simp [hi]) fun _ => ⟨hf, hi⟩

end Sys2Proof.Machine
end

section
/-! The values DFR and RES take: reset, a parsed frame and the value of each GET are canonical and
stay inside the input they come from (10_state.md R34, R35, R37). -/

namespace Sys2Proof.Machine

theorem DFR.reset_canonical : DFR.reset.canonical := by
  refine ⟨fun _ => rfl, fun k _ => ?_, fun _ => ⟨rfl, rfl, rfl⟩, rfl⟩
  simp [DFR.reset]

theorem Res.reset_canonical : Res.reset.canonical := by
  simp [Res.canonical, Res.reset]

/-- A parsed extension is empty when X = 0, and its block is its word count in bytes, taken from the
sequence. -/
theorem parseExt_shape {s : Bytes} {cur : Nat} {x : Bool} {ext : ParsedExt}
    (h : parseExt s cur x = .ok ext) :
    (x = false → ext.profile = 0 ∧ ext.words = 0 ∧ ext.block = [])
      ∧ ext.block.length = 4 * ext.words.toNat ∧ ext.block.length ≤ s.length := by
  rcases parseExt_ok.mp h with ⟨-, rfl⟩ | ⟨rfl, hhead, hblock, rfl⟩
  · exact ⟨fun _ => ⟨rfl, rfl, rfl⟩, rfl, Nat.zero_le _⟩
  · have hw : rdBE s (cur + 2) 2 < 2 ^ 16 := rdBE_lt s (cur + 2) 2
    refine ⟨nofun, ?_, ?_⟩
    · rw [slice_length, BitVec.toNat_ofNat, Nat.mod_eq_of_lt hw]
      omega
    · rw [slice_length]
      omega

theorem parsePayload_length_le {s : Bytes} {cur : Nat} {p : Bool} {b : Bytes}
    (h : parsePayload s cur p = .ok b) : b.length ≤ s.length := by
  rcases parsePayload_ok.mp h with ⟨-, rfl⟩ | ⟨-, -, -, rfl⟩ <;> rw [slice_length] <;> omega

theorem decodeFrame_canonical {s : Bytes} {d : DFR} (h : decodeFrame s = .ok d) :
    d.canonical := by
  obtain ⟨-, -, ext, pay, hext, -, rfl⟩ := decodeFrame_ok.mp h
  obtain ⟨habsent, hblock, -⟩ := parseExt_shape hext
  refine ⟨nofun, fun k hk => ?_, habsent, hblock⟩
  exact (csrcTable_get s 12 _ k).trans (if_neg (not_lt.mpr hk))

/-- A frame's block and payload are no longer than the sequence it was parsed from. -/
theorem decodeFrame_length_le {s : Bytes} {d : DFR} (h : decodeFrame s = .ok d) :
    d.xblock.length ≤ s.length ∧ d.payload.length ≤ s.length := by
  obtain ⟨-, -, ext, pay, hext, hpay, rfl⟩ := decodeFrame_ok.mp h
  obtain ⟨-, -, hblock⟩ := parseExt_shape hext
  exact ⟨hblock, parsePayload_length_le hpay⟩

theorem Res.ofUint_canonical (v : Word) : (Res.ofUint v).canonical := by
  simp [Res.canonical, Res.ofUint, Res.reset]

theorem Res.ofBool_canonical (b : Bool) : (Res.ofBool b).canonical := by
  cases b <;> simp [Res.canonical, Res.ofBool, Res.reset]

theorem Res.ofWords_canonical (n : BitVec 4) (l : Vector Word 15) :
    (Res.ofWords n l).canonical := by
  have hunused : ∀ k : Fin 15, n.toNat ≤ k.val → (Res.ofWords n l).words[k] = 0 := fun k hk => by
    rw [Res.ofWords_get, if_neg (not_lt.mpr hk)]
  exact ⟨fun _ _ => rfl, nofun, fun h => absurd rfl h, hunused, fun _ => rfl, fun _ _ => rfl⟩

theorem Res.ofBytes_canonical (b : Bytes) : (Res.ofBytes b).canonical := by
  simp [Res.canonical, Res.ofBytes, Res.reset]

theorem Res.ofExt_canonical (x : Bool) (profile : BitVec 16) (block : Bytes) :
    (Res.ofExt x profile block).canonical := by
  cases x <;> simp [Res.canonical, Res.ofExt, Res.reset]

theorem getValue_canonical {i : Instr} {value : DFR → Res} (h : getValue i = some value)
    (d : DFR) : (value d).canonical := by
  cases i <;> cases h
  case getVersion | getPayloadType | getSequenceNumber | getTimestamp | getSsrc =>
    exact Res.ofUint_canonical _
  case getPadding | getExtension | getMarker => exact Res.ofBool_canonical _
  case getCsrcs => exact Res.ofWords_canonical _ _
  case getExtensionHeader => exact Res.ofExt_canonical _ _ _
  case getPayload => exact Res.ofBytes_canonical _

/-- The bytes a GET returns are none, the frame's block, or its payload. -/
theorem getValue_bytes {i : Instr} {value : DFR → Res} (h : getValue i = some value) (d : DFR) :
    (value d).bytes = [] ∨ (value d).bytes = d.xblock ∨ (value d).bytes = d.payload := by
  cases i <;> cases h
  case getExtensionHeader =>
    show (Res.ofExt d.x _ _).bytes = [] ∨ (Res.ofExt d.x _ _).bytes = d.xblock ∨ _
    cases d.x
    · exact .inl rfl
    · exact .inr (.inl rfl)
  case getPayload => exact .inr (.inr rfl)
  all_goals exact .inl rfl

end Sys2Proof.Machine
end

section
/-! One rule per named update of State: what the new value must satisfy for the invariant to
hold after it. -/

namespace Sys2Proof.Machine

theorem State.inv.fits {s : State} (h : s.inv) : s.fits := h.1

theorem State.inv.defaultsWritten {s : State} (h : s.inv) : s.eir.defaultsWritten := h.2.1

theorem State.inv.setPending {s : State} (h : s.inv) (v : List HostAction) :
    (s.setPending v).inv := h

theorem State.inv.addReturned {s : State} (h : s.inv) (v : HostValue) :
    (s.addReturned v).inv := h

theorem State.inv.setStatus {s : State} (h : s.inv) {v : Word} (hv : statusLegal v) :
    (s.setStatus v).inv := by
  obtain ⟨hfits, heir, hdfr, hres, -⟩ := h
  exact ⟨hfits, heir, hdfr, hres, hv⟩

theorem State.inv.setEir {s : State} (h : s.inv) {v : EIR} (hv : v.defaultsWritten)
    (hp : ∀ b ∈ v.payload, b.length ≤ s.cfg.payloadCap)
    (hx : ∀ b ∈ v.xblock, b.length ≤ s.cfg.xblockCap) : (s.setEir v).inv := by
  obtain ⟨⟨hcfg, -, -, hrest⟩, -, hdfr, hres, hst⟩ := h
  exact ⟨⟨hcfg, hp, hx, hrest⟩, hv, hdfr, hres, hst⟩

theorem State.inv.setIbuf {s : State} (h : s.inv) {v : Bytes}
    (hv : v.length ≤ s.cfg.ibufCap) : (s.setIbuf v).inv := by
  obtain ⟨⟨hcfg, hp, hx, -, hrest⟩, heir, hdfr, hres, hst⟩ := h
  exact ⟨⟨hcfg, hp, hx, hv, hrest⟩, heir, hdfr, hres, hst⟩

theorem State.inv.setObuf {s : State} (h : s.inv) {v : Bytes}
    (hv : v.length ≤ s.cfg.obufCap) : (s.setObuf v).inv := by
  obtain ⟨⟨hcfg, hp, hx, hi, -, hrest⟩, heir, hdfr, hres, hst⟩ := h
  exact ⟨⟨hcfg, hp, hx, hi, hv, hrest⟩, heir, hdfr, hres, hst⟩

theorem State.inv.setDfr {s : State} (h : s.inv) {v : DFR} (hv : v.canonical)
    (hx : v.xblock.length ≤ s.cfg.ibufCap) (hp : v.payload.length ≤ s.cfg.ibufCap) :
    (s.setDfr v).inv := by
  obtain ⟨⟨hcfg, hep, hex, hi, ho, -, -, hr⟩, heir, -, hres, hst⟩ := h
  exact ⟨⟨hcfg, hep, hex, hi, ho, hx, hp, hr⟩, heir, hv, hres, hst⟩

theorem State.inv.setRes {s : State} (h : s.inv) {v : Res} (hv : v.canonical)
    (hb : v.bytes.length ≤ s.cfg.ibufCap) : (s.setRes v).inv := by
  obtain ⟨⟨hcfg, hp, hx, hi, ho, hdx, hdp, -⟩, heir, hdfr, -, hst⟩ := h
  exact ⟨⟨hcfg, hp, hx, hi, ho, hdx, hdp, hb⟩, heir, hdfr, hv, hst⟩

/-- EIR is consumed (R29). -/
theorem State.inv.setEir_reset {s : State} (h : s.inv) : (s.setEir EIR.reset).inv :=
  h.setEir ⟨rfl, rfl, rfl, rfl, rfl⟩ nofun nofun

/-- The outputs an error clears take their reset values (R195). -/
theorem State.inv.clearOutputs {s : State} (h : s.inv) (c : ErrClass) :
    (clearOutputs c s).inv := by
  cases c with
  | none => exact h
  | validation => exact (h.setObuf (Nat.zero_le _)).setEir_reset
  | malformed => exact h.setDfr DFR.reset_canonical (Nat.zero_le _) (Nat.zero_le _)
  | accessor => exact h.setRes Res.reset_canonical (Nat.zero_le _)
  | command => exact h

/-- The reset state meets the invariant in every configuration R8 allows. -/
theorem State.resetWith_inv {c : Config} (hc : 12 ≤ c.obufCap) : (State.resetWith c).inv := by
  have hfits : (State.resetWith c).fits :=
    ⟨hc, nofun, nofun, Nat.zero_le _, Nat.zero_le _, Nat.zero_le _, Nat.zero_le _, Nat.zero_le _⟩
  exact ⟨hfits, ⟨rfl, rfl, rfl, rfl, rfl⟩, DFR.reset_canonical, Res.reset_canonical, .inl rfl⟩

end Sys2Proof.Machine
end

section
/-! Every action of the host keeps the invariant: the commands, the words that select none, the
register writes, the reads and reset. -/

namespace Sys2Proof.Machine

theorem execEnc_inv {s t : State} (h : s.inv) (ht : execEnc s = .next t) : t.inv := by
  rcases execEnc_cases s with ⟨f, hf, heq⟩ | ⟨e, -, hcls, hfield, hindex, heq⟩
  · obtain rfl := Host.Outcome.next.inj (heq.symm.trans ht)
    have hlen : f.bytes.length ≤ s.cfg.obufCap := by
      obtain ⟨-, -, -, -, -, -, -, -, -, -, htotal⟩ := validate_ok.mp hf
      rwa [Frame.bytes_length]
    exact (h.setObuf hlen).setEir_reset.setStatus (statusLegal_statusOk 1)
  · obtain rfl := Host.Outcome.next.inj (heq.symm.trans ht)
    exact (h.clearOutputs .validation).setStatus
      (statusLegal_statusError 1 hfield hindex fun hne => absurd hcls hne)

theorem execDec_inv {s t : State} (h : s.inv) (ht : execDec s = .next t) : t.inv := by
  rcases execDec_cases s with ⟨d, hd, heq⟩ | ⟨e, -, -, hfield, hindex, heq⟩
  · obtain rfl := Host.Outcome.next.inj (heq.symm.trans ht)
    obtain ⟨-, -, -, hibuf, -⟩ := h.fits
    obtain ⟨hblock, hpay⟩ := decodeFrame_length_le hd
    exact (h.setDfr (decodeFrame_canonical hd) (hblock.trans hibuf) (hpay.trans hibuf)).setStatus
      (statusLegal_statusOk 2)
  · obtain rfl := Host.Outcome.next.inj (heq.symm.trans ht)
    exact (h.clearOutputs .malformed).setStatus (statusLegal_statusError_none 2 hfield hindex)

theorem completeGet_inv {s : State} (h : s.inv) {i : Instr} {value : DFR → Res}
    (hv : getValue i = some value) : (completeGet value s).inv := by
  cases hvalid : s.dfr.valid with
  | true =>
    rw [completeGet_valid value s hvalid]
    obtain ⟨-, -, -, -, -, hblock, hpay, -⟩ := h.fits
    have hlen : (value s.dfr).bytes.length ≤ s.cfg.ibufCap := by
      rcases getValue_bytes hv s.dfr with hb | hb | hb <;> rw [hb]
      · exact Nat.zero_le _
      · exact hblock
      · exact hpay
    exact (h.setRes (getValue_canonical hv s.dfr) hlen).setStatus (statusLegal_statusOk 3)
  | false =>
    rw [completeGet_noFrame value s hvalid]
    exact (h.clearOutputs .accessor).setStatus (statusLegal_statusError_none 3 rfl rfl)

theorem exec_inv {i : Instr} {s t : State} (h : s.inv) (ht : exec i s = .next t) : t.inv := by
  rcases exec_cases i with ⟨-, heq⟩ | ⟨-, heq⟩ | ⟨-, -, value, hv, heq⟩ <;> rw [heq s] at ht
  · exact execEnc_inv h ht
  · exact execDec_inv h ht
  · obtain rfl := Host.Outcome.next.inj ht
    exact completeGet_inv h hv

/-- The error of a word that selects no command names no input. -/
theorem rejectError_names_none (r : CmdReject) :
    (rejectError r).field = .none ∧ (rejectError r).index = 0 := by
  cases r <;> exact ⟨rfl, rfl⟩

theorem issue_inv {w : Word} {s t : State} (h : s.inv) (ht : issue w s = .next t) : t.inv := by
  rcases issue_cases w s with ⟨i, -, heq⟩ | ⟨r, -, heq⟩ <;> rw [heq] at ht
  · exact exec_inv h ht
  · obtain rfl := Host.Outcome.next.inj ht
    obtain ⟨hfield, hindex⟩ := rejectError_names_none r
    exact (h.clearOutputs _).setStatus (statusLegal_statusError_none _ hfield hindex)

/-- An admitted byte-sequence write fits its register (R58). -/
theorem hostBytes_length_le {r : Reg} {cap : Nat} {v : HostValue}
    (h : refuseBytes r cap v = none) : (hostBytes v).length ≤ cap := by
  cases v with
  | int n => exact Nat.zero_le _
  | bytes b => simpa [refuseBytes, hostBytes] using h

/-- No host write clears the written bit of a defaulted input. -/
theorem writeEir_defaultsWritten (r : Reg) (v : HostValue) {e : EIR} (h : e.defaultsWritten) :
    (writeEir r v e).defaultsWritten := by
  obtain ⟨hcount, hmarker, hpad, hext, hversion⟩ := h
  cases r
  case eCsrcN => exact ⟨rfl, hmarker, hpad, hext, hversion⟩
  case eMarker => exact ⟨hcount, rfl, hpad, hext, hversion⟩
  case ePad => exact ⟨hcount, hmarker, rfl, hext, hversion⟩
  case eXpresent => exact ⟨hcount, hmarker, hpad, rfl, hversion⟩
  case eVersion => exact ⟨hcount, hmarker, hpad, hext, rfl⟩
  all_goals exact ⟨hcount, hmarker, hpad, hext, hversion⟩

theorem writeEir_payload_of_ne {r : Reg} (hr : r ≠ .ePayload) (v : HostValue) (e : EIR) :
    (writeEir r v e).payload = e.payload := by
  cases r
  case ePayload => exact absurd rfl hr
  all_goals rfl

theorem writeEir_xblock_of_ne {r : Reg} (hr : r ≠ .eXblock) (v : HostValue) (e : EIR) :
    (writeEir r v e).xblock = e.xblock := by
  cases r
  case eXblock => exact absurd rfl hr
  all_goals rfl

/-- An admitted write keeps E_PAYLOAD within its capacity. -/
theorem writeEir_payload_fits {c : Config} {r : Reg} {v : HostValue} {e : EIR}
    (hadm : refuseWrite c r v = none) (h : ∀ b ∈ e.payload, b.length ≤ c.payloadCap) :
    ∀ b ∈ (writeEir r v e).payload, b.length ≤ c.payloadCap := by
  by_cases hr : r = .ePayload
  · subst hr
    rintro _ ⟨⟩
    exact hostBytes_length_le hadm
  · rwa [writeEir_payload_of_ne hr]

/-- An admitted write keeps E_XBLOCK within its capacity. -/
theorem writeEir_xblock_fits {c : Config} {r : Reg} {v : HostValue} {e : EIR}
    (hadm : refuseWrite c r v = none) (h : ∀ b ∈ e.xblock, b.length ≤ c.xblockCap) :
    ∀ b ∈ (writeEir r v e).xblock, b.length ≤ c.xblockCap := by
  by_cases hr : r = .eXblock
  · subst hr
    rintro _ ⟨⟩
    exact hostBytes_length_le hadm
  · rwa [writeEir_xblock_of_ne hr]

theorem writeReg_inv {r : Reg} {v : HostValue} {s : State} (h : s.inv)
    (hadm : refuseWrite s.cfg r v = none) : (writeReg r v s).inv := by
  rcases writeReg_eq r v s with ⟨_, heq, rfl⟩ | ⟨rfl, heq⟩ <;> rw [heq]
  · obtain ⟨-, hpay, hblock, -⟩ := h.fits
    exact h.setEir (writeEir_defaultsWritten r v h.defaultsWritten)
      (writeEir_payload_fits hadm hpay) (writeEir_xblock_fits hadm hblock)
  · exact h.setIbuf (hostBytes_length_le hadm)

theorem perform_inv {a : HostAction} {s t : State} (h : s.inv) (ht : perform a s = .next t) :
    t.inv := by
  cases a with
  | write n v =>
    obtain ⟨r, -, hadm, ⟨-, hissue⟩ | ⟨-, rfl⟩⟩ := hostWrite_next.mp ht
    · exact issue_inv h hissue
    · exact writeReg_inv h hadm
  | read n =>
    obtain ⟨r, v, -, -, rfl⟩ := hostRead_next.mp ht
    exact h.addReturned v
  | reset =>
    obtain rfl := Host.Outcome.next.inj ht
    obtain ⟨hcfg, -⟩ := h.fits
    exact State.resetWith_inv hcfg

theorem step_inv {s t : State} (h : s.inv) (ht : step s = .next t) : t.inv := by
  rcases step_cases s with ⟨-, heq⟩ | ⟨a, rest, -, heq⟩ <;> rw [heq] at ht
  · obtain rfl := Host.Outcome.next.inj ht
    exact h
  · exact perform_inv (h.setPending rest) ht

/-- Settles O42: the reset state of every configuration R8 allows meets the invariant, the reference
configuration among them. -/
theorem resetMeetsInvariant : Obligations.ResetMeetsInvariant :=
  ⟨State.resetWith_inv (by decide), fun _ hc => State.resetWith_inv (of_decide_eq_true hc)⟩

/-- Settles O43, by cases on the action the step performs. -/
theorem everyStepKeepsInvariant : Obligations.EveryStepKeepsInvariant :=
  fun _ _ h ht => step_inv h ht

end Sys2Proof.Machine
end

section
/-! Big-endian numbers as arithmetic: the bytes of `be`, and `rdBE` as a sum (00_scope.md R13). -/

namespace Sys2Proof.Machine

/-- Byte i of `BE(v, n)` is the i-th most significant. -/
theorem be_getElem? (v : Nat) {n i : Nat} (h : i < n) : (be v n)[i]? = some (beByte v n i) := by
  have hpow : 2 ^ (8 * (n - 1 - i)) = 256 ^ (n - 1 - i) := by rw [Nat.pow_mul]
  have hbyte : BitVec.ofNat 8 (v >>> (8 * (n - 1 - i))) = beByte v n i := by
    apply BitVec.eq_of_toNat_eq
    rw [beByte, BitVec.toNat_ofNat, BitVec.toNat_ofNat, Nat.shiftRight_eq_div_pow, hpow]
    exact (Nat.mod_mod _ 256).symm
  simp [be, h, hbyte]

/-- Horner's scheme is the sum of the bytes at their weights, above what was there. -/
theorem foldl_horner_eq_sum (l : Bytes) (acc : Nat) :
    l.foldl (fun a b => a * 256 + b.toNat) acc = acc * 256 ^ l.length
      + ((List.range l.length).map fun i => byteNat l i * 256 ^ (l.length - 1 - i)).sum := by
  induction l generalizing acc with
  | nil => simp
  | cons b l ih =>
    simp only [List.foldl_cons, ih, List.length_cons, List.range_succ_eq_map, List.map_cons,
      List.map_map, List.sum_cons, Function.comp_def, Nat.succ_eq_add_one, byteNat,
      List.getD_cons_zero, List.getD_cons_succ, Nat.add_sub_cancel, Nat.sub_zero, Nat.sub_sub,
      Nat.add_comm 1]
    ring

/-- Byte i of a MemRead is byte `off + i` of the sequence. -/
theorem byteNat_memRead (s : Bytes) (off : Nat) {n i : Nat} (h : i < n) :
    byteNat (memRead s off n) i = byteNat s (off + i) := by
  simp [byteNat, memRead, slice, h]

/-- `RdBE` is the sum of R13. -/
theorem rdBE_eq_sum {s : Bytes} {off n : Nat} (h : off + n ≤ s.length) :
    rdBE s off n
      = ((List.range n).map fun i => byteNat s (off + i) * 256 ^ (n - 1 - i)).sum := by
  have hlen : (memRead s off n).length = n := by
    rw [memRead, slice_length]
    omega
  rw [rdBE, foldl_horner_eq_sum, hlen, Nat.zero_mul, Nat.zero_add]
  congr 1
  apply List.map_congr_left
  intro i hi
  rw [byteNat_memRead s off (List.mem_range.mp hi)]

/-- Settles O46: the bytes of `be`, `rdBE` as a sum, and the reading back of Laws/Bytes. -/
theorem bigEndianReadsBack : Obligations.BigEndianReadsBack :=
  ⟨fun v n _ => ⟨be_length v n, be_getElem? v⟩, fun _ _ _ => rdBE_eq_sum, rdBE_be⟩

end Sys2Proof.Machine
end

section
/-! The host port by register: the number of a register names it again, and an admitted write sets
it (20_memory.md R57, R58). -/

namespace Sys2Proof.Machine

/-- The number of a register names that register (R57). -/
theorem regOfNumber_regNumber (r : Reg) : regOfNumber (regNumber r) = some r := by
  cases r
  case eCsrc k | resWords k =>
    revert k
    decide
  all_goals rfl

/-- Only number 0x00 names CMD (R57). -/
theorem eq_zero_of_regOfNumber_cmd {n : BitVec 8} (h : regOfNumber n = some .cmd) : n = 0x00 := by
  revert n
  decide

theorem refuseInt_eq_none {r : Reg} {lo hi v : Int} :
    refuseInt r lo hi (.int v) = none ↔ lo ≤ v ∧ v < hi := by
  simp [refuseInt]

/-- A value admitted to CMD is the command word it presents (R22). -/
theorem eq_int_of_hostWord {c : Config} {v : HostValue} (h : refuseWrite c .cmd v = none) :
    v = .int (hostWord v).toNat := by
  cases v with
  | int v =>
    obtain ⟨hlo, hhi⟩ := refuseInt_eq_none.mp h
    have hv : ((BitVec.ofInt 32 v).toNat : Int) = v := by
      rw [BitVec.toNat_ofInt]
      omega
    exact congrArg HostValue.int hv.symm
  | bytes b => exact absurd h nofun

/-- An admitted write to a register other than CMD sets it. -/
theorem hostWrite_regNumber {r : Reg} {v : HostValue} {s : State} (hr : r ≠ .cmd)
    (hadm : refuseWrite s.cfg r v = none) :
    hostWrite (regNumber r) v s = .next (writeReg r v s) :=
  hostWrite_next.mpr ⟨r, regOfNumber_regNumber r, hadm, .inr ⟨hr, rfl⟩⟩

theorem refuseBytes_eq_none {r : Reg} {cap : Nat} {b : Bytes} :
    refuseBytes r cap (.bytes b) = none ↔ b.length ≤ cap := by
  simp [refuseBytes]

/-- A byte sequence within IBUF_CAP is written whole. -/
theorem hostWrite_ibuf {s : State} {b : Bytes} (h : b.length ≤ s.cfg.ibufCap) :
    hostWrite 0x20 (.bytes b) s = .next (s.setIbuf b) :=
  hostWrite_regNumber (r := .ibuf) nofun (refuseBytes_eq_none.mpr h)

/-- The entry a write to E_CSRC[k] sets, and those it leaves. -/
theorem csrc_set_get {α : Type} (regs : Vector α 15) (k j : Fin 15) (x : α) :
    (regs.set k x)[j] = if j = k then x else regs[j] := by
  simp [Vector.getElem_set, Fin.ext_iff, eq_comm]

/-- Settles O35: each register's number names it, and every s64 value is admitted. -/
theorem scalarWritesSetValueAndWrittenBit : Obligations.ScalarWritesSetValueAndWrittenBit := by
  intro s v hlo hhi
  have hadm (r : Reg) : refuseInt r (-2 ^ 63) (2 ^ 63) (.int v) = none :=
    refuseInt_eq_none.mpr ⟨hlo, hhi⟩
  refine ⟨BitVec.ofInt 64 v, BitVec.toInt_ofInt_eq_self (by decide) hlo hhi,
    hostWrite_regNumber (r := .eSsrc) nofun (hadm _),
    hostWrite_regNumber (r := .ePt) nofun (hadm _),
    hostWrite_regNumber (r := .eSeq) nofun (hadm _),
    hostWrite_regNumber (r := .eTs) nofun (hadm _),
    hostWrite_regNumber (r := .eCsrcN) nofun (hadm _),
    hostWrite_regNumber (r := .ePad) nofun (hadm _),
    hostWrite_regNumber (r := .eXprofile) nofun (hadm _),
    hostWrite_regNumber (r := .eVersion) nofun (hadm _), fun k => ?_⟩
  have hnum : BitVec.ofNat 8 (0x10 + k.val) = regNumber (.eCsrc k) := BitVec.ofNat_add ..
  rw [hnum]
  exact ⟨_, hostWrite_regNumber nofun (hadm _), fun j => csrc_set_get _ k j _⟩

/-- Settles O36: each register's number names it, and every bit and every byte sequence that fits is
admitted. -/
theorem bitAndByteWritesSetTheRegister : Obligations.BitAndByteWritesSetTheRegister := by
  intro s v b
  refine ⟨?_, ?_, fun h => hostWrite_regNumber (r := .ePayload) nofun (refuseBytes_eq_none.mpr h),
    fun h => hostWrite_regNumber (r := .eXblock) nofun (refuseBytes_eq_none.mpr h), hostWrite_ibuf⟩
  · cases v <;> exact hostWrite_regNumber (r := .eMarker) nofun rfl
  · cases v <;> exact hostWrite_regNumber (r := .eXpresent) nofun rfl

end Sys2Proof.Machine
end

section
/-! Command words: the decoder on an encoding, the fields of a word it accepts, and the step that
issues it (30_encoding.md R70 to R75). -/

namespace Sys2Proof.Machine

theorem decode_encode (i : Instr) : decode (encode i) = .ok i := by
  cases i <;> rfl

/-- The field identifier of a GET is the one that selects it (R73). -/
theorem getOfFid_ok {fid : BitVec 4} {i : Instr} (h : getOfFid fid = .ok i) :
    i.op = 3 ∧ i.fid = fid := by
  unfold getOfFid at h
  split at h <;> cases h <;>
    exact ⟨rfl, BitVec.eq_of_toNat_eq (Eq.symm (by assumption))⟩

theorem toWord_ofWord (w : Word) : (CmdFields.ofWord w).toWord = w := by
  have hhigh : w.extractLsb' 8 24 ++ w.extractLsb' 4 4 = w.extractLsb' 4 28 :=
    BitVec.extractLsb'_append_extractLsb'_eq_extractLsb' rfl
  have hall : w.extractLsb' 4 28 ++ w.extractLsb' 0 4 = w.extractLsb' 0 32 :=
    BitVec.extractLsb'_append_extractLsb'_eq_extractLsb' rfl
  calc (CmdFields.ofWord w).toWord
      = (w.extractLsb' 8 24 ++ w.extractLsb' 4 4) ++ w.extractLsb' 0 4 := rfl
    _ = w.extractLsb' 0 32 := by rw [hhigh, hall]
    _ = w := BitVec.extractLsb'_eq_self

/-- A word that decodes to a command has that command's fields. -/
theorem ofWord_of_decode {w : Word} {i : Instr} (h : decode w = .ok i) :
    CmdFields.ofWord w = { op := i.op, fid := i.fid, rsvd := 0 } := by
  unfold decode at h
  generalize CmdFields.ofWord w = f at h ⊢
  obtain ⟨op, fid, rsvd⟩ := f
  simp only at h
  split_ifs at h with hop hrsvd hfid henc hdec
  · cases h
    simp_all [Instr.op, Instr.fid]
  · cases h
    simp_all [Instr.op, Instr.fid]
  · obtain ⟨hi, hf⟩ := getOfFid_ok h
    simp_all

/-- A word that decodes to a command is that command's encoding. -/
theorem eq_encode_of_decode {w : Word} {i : Instr} (h : decode w = .ok i) : w = encode i := by
  rw [← toWord_ofWord w, ofWord_of_decode h, encode]

/-- STATUS.OP of a command that runs is bits 3:0 of its word (R194). -/
theorem op_of_decode {w : Word} {i : Instr} (h : decode w = .ok i) :
    i.op = w.extractLsb' 0 4 :=
  (congrArg CmdFields.op (ofWord_of_decode h)).symm

/-- A write of a word to CMD issues it (R22). -/
theorem hostWrite_cmd (w : Word) (s : State) :
    hostWrite (regNumber .cmd) (.int w.toNat) s = issue w s := by
  obtain ⟨t, ht⟩ := issue_completes w s
  have hw : hostWord (.int w.toNat) = w := by simp [hostWord]
  have hadm : refuseInt .cmd 0 (2 ^ 32) (.int w.toNat) = none :=
    refuseInt_eq_none.mpr ⟨by omega, by have := w.isLt; omega⟩
  have hissue : issue (hostWord (.int w.toNat)) s = .next t := (congrArg (issue · s) hw).trans ht
  rw [ht]
  exact hostWrite_next.mpr ⟨.cmd, regOfNumber_regNumber .cmd, hadm, .inl ⟨rfl, hissue⟩⟩

theorem issue_of_decode {w : Word} {i : Instr} (h : decode w = .ok i) (s : State) :
    issue w s = exec i s := by
  rw [issue, h]

/-- Settles O7: the oldest action is the write to CMD, which issues its word. -/
theorem stepRunsTheIssuedCommand : Obligations.StepRunsTheIssuedCommand := by
  intro s w i rest hpending hw
  have hstep : step s = perform (.write 0x00 (.int w.toNat)) (s.setPending rest) := by
    rw [step, performNext, hpending]
  rw [hstep, ← issue_of_decode hw]
  exact hostWrite_cmd w (s.setPending rest)

theorem decodeTableWord_encode (i : Instr) : decodeTableWord 32 (encode i).toNat = some i := by
  have hlt := (encode i).isLt
  rw [decodeTableWord, Nat.mod_eq_of_lt hlt]
  simp only [hlt, if_true, BitVec.ofNat_toNat, BitVec.setWidth_eq, decode_encode]

/-- Settles O8: the word handed over stands first in the host's actions, and removing it gives the
state back. -/
theorem fetchedWordIsTheNextCommand : Obligations.FetchedWordIsTheNextCommand := by
  intro s i
  refine ⟨decodeTableWord_encode i, ?_⟩
  rw [State.withFetchWord, Nat.mod_eq_of_lt (encode i).isLt]
  exact stepRunsTheIssuedCommand _ (encode i) i s.pending rfl (decode_encode i)

end Sys2Proof.Machine
end

section
/-! ENC: it consumes EIR and keeps what is not its output, reads no unused input, and finds none
straight after another ENC (10_state.md R28, R29, 40_encoder.md R101, R110). -/

namespace Sys2Proof.Machine

/-- Success or failure, ENC writes STATUS and OBUF and consumes EIR, and nothing else. -/
theorem execEnc_writes (s : State) : ∃ (st : Word) (o : Bytes),
    execEnc s = .next { s with status := st, obuf := o, eir := EIR.reset } := by
  rcases execEnc_cases s with ⟨f, -, h⟩ | ⟨e, -, -, -, -, h⟩
  · exact ⟨_, _, h⟩
  · exact ⟨_, _, h⟩

/-- Settles O13: STATUS, OBUF and the consumed EIR are all ENC writes. -/
theorem encConsumesInputsAndKeepsTheRest : Obligations.EncConsumesInputsAndKeepsTheRest := by
  intro s
  obtain ⟨st, o, h⟩ := execEnc_writes s
  exact ⟨_, h, rfl, rfl, rfl, rfl, rfl, rfl, rfl⟩

/-- Validation of the consumed inputs stops at its first check: E_SSRC is not written. -/
theorem validate_reset (c : Config) : validate c EIR.reset = .error ⟨.missing, .ssrc, 0⟩ := rfl

/-- ENC on consumed inputs reports MISSING, SSRC (R223). -/
theorem execEnc_of_eir_reset {s : State} (h : s.eir = EIR.reset) :
    execEnc s = .next { s with status := 0x00101042, obuf := [], eir := EIR.reset } := by
  rw [execEnc, h, validate_reset]
  exact congrArg Host.Outcome.next (completeError_validation 1 ⟨.missing, .ssrc, 0⟩ s rfl)

/-- Settles O15: the first ENC has consumed EIR. -/
theorem secondEncFindsNoInputs : Obligations.SecondEncFindsNoInputs := by
  intro s t h
  obtain ⟨st, o, hs⟩ := execEnc_writes s
  have ht : t.eir = EIR.reset := by rw [← Host.Outcome.next.inj (hs.symm.trans h)]
  exact execEnc_of_eir_reset ht

/-- The entries read depend on those registers alone. -/
theorem readCsrcs_congr {regs regs' : Vector (Option S64) 15} {k n : Nat}
    (h : ∀ j, k ≤ j → j < k + n → regs'[j]? = regs[j]?) :
    readCsrcs regs' k n = readCsrcs regs k n := by
  induction n generalizing k with
  | zero => rfl
  | succ n ih =>
    have hrest : readCsrcs regs' (k + 1) n = readCsrcs regs (k + 1) n :=
      ih fun j hj hjn => h j (by omega) (by omega)
    rw [readCsrcs, readCsrcs, h k (le_refl k) (by omega), hrest]

section UnusedInputs
variable {e : EIR} {csrc : Vector (Option S64) 15} {xprofile : Option S64} {xblock : Option Bytes}

/-- The entries at index E_CSRC_N and above are not read, and none is when the count is outside 0 to
15 (R28). -/
theorem readCsrcList_congr
    (h : ∀ k : Fin 15, (k.val : Int) < e.csrcN.value.toInt → e.csrcN.value.toInt ≤ 15 →
      csrc[k] = e.csrc[k]) :
    readCsrcList { e with csrc := csrc, xprofile := xprofile, xblock := xblock }
      = readCsrcList e := by
  unfold readCsrcList
  simp only
  split
  · next hn =>
    apply readCsrcs_congr
    intro j _ hj
    have hj15 : j < 15 := by omega
    have hget : csrc[j] = e.csrc[j] := h ⟨j, hj15⟩ (by simp only; omega) hn.2
    rw [Vector.getElem?_eq_getElem hj15, Vector.getElem?_eq_getElem hj15, hget]
  · rfl

/-- The profile and the block are read only when E_XPRESENT = 1 (R101). -/
theorem readExt_congr
    (h : e.xpresent.value = true → xprofile = e.xprofile ∧ xblock = e.xblock) :
    readExt { e with csrc := csrc, xprofile := xprofile, xblock := xblock } = readExt e := by
  cases hx : e.xpresent.value with
  | false => simp only [readExt, hx, Bool.false_eq_true, if_false]
  | true =>
    obtain ⟨rfl, rfl⟩ := h hx
    rfl

/-- Validation reads an entry through the CSRC list alone, the profile and the block through the
extension alone. -/
theorem validate_congr {c : Config}
    (hcsrc : readCsrcList { e with csrc := csrc, xprofile := xprofile, xblock := xblock }
      = readCsrcList e)
    (hext : readExt { e with csrc := csrc, xprofile := xprofile, xblock := xblock } = readExt e) :
    validate c { e with csrc := csrc, xprofile := xprofile, xblock := xblock } = validate c e := by
  simp only [validate, hcsrc, hext]

end UnusedInputs

/-- ENC reads EIR through validation alone. -/
theorem execEnc_setEir {s : State} {e : EIR} (h : validate s.cfg e = validate s.cfg s.eir) :
    execEnc (s.setEir e) = execEnc s := by
  simp only [execEnc, State.setEir_cfg, State.setEir_eir, h]
  cases hv : validate s.cfg s.eir with
  | ok f => rfl
  | error err =>
    obtain ⟨hcls, -, -⟩ := validate_error hv
    simp only [completeError_validation _ _ _ hcls]
    rfl

/-- Settles O14: the unused inputs reach neither reading of R101, so validation is the same. -/
theorem encIgnoresUnusedInputs : Obligations.EncIgnoresUnusedInputs := by
  intro s csrc xprofile xblock hcsrc hext
  exact execEnc_setEir (validate_congr (readCsrcList_congr hcsrc) (readExt_congr hext))

end Sys2Proof.Machine
end

section
/-! GET: every GET completes with the value of its field, and reads no other register than DFR
(10_state.md R36, 42_accessor.md R160). -/

namespace Sys2Proof.Machine

theorem exec_of_isGet {i : Instr} (h : isGet i = true) :
    ∃ value, ∀ s, exec i s = .next (completeGet value s) := by
  rcases exec_cases i with ⟨rfl, -⟩ | ⟨rfl, -⟩ | ⟨-, -, value, -, hexec⟩
  · exact absurd h (by decide)
  · exact absurd h (by decide)
  · exact ⟨value, hexec⟩

/-- A GET neither reads nor writes IBUF. -/
theorem completeGet_setIbuf (value : DFR → Res) (s : State) (b : Bytes) :
    completeGet value (s.setIbuf b) = (completeGet value s).setIbuf b := by
  cases h : s.dfr.valid with
  | true => rw [completeGet_valid _ s h, completeGet_valid _ (s.setIbuf b) h]; rfl
  | false => rw [completeGet_noFrame _ s h, completeGet_noFrame _ (s.setIbuf b) h]; rfl

/-- Settles O29: the write leaves DFR, and the GET after it differs in IBUF alone. -/
theorem hostWriteToIbufKeepsTheFrame : Obligations.HostWriteToIbufKeepsTheFrame := by
  intro s b i hb hi
  obtain ⟨value, hexec⟩ := exec_of_isGet hi
  refine ⟨s.setIbuf b, completeGet value s, completeGet value (s.setIbuf b), hostWrite_ibuf hb, rfl,
    rfl, hexec s, hexec (s.setIbuf b), ?_, ?_⟩
  · rw [completeGet_setIbuf, State.setIbuf_res]
  · rw [completeGet_setIbuf, State.setIbuf_status]

end Sys2Proof.Machine
end

section
/-! STATUS: the completion words as sums, what a completion reports, and that no command reads
STATUS (10_state.md R23, R24, 60_exceptions.md R193, R194). -/

namespace Sys2Proof.Machine

/-- The success word of R193, as arithmetic. -/
theorem statusOk_eq (op : BitVec 4) : statusOk op = BitVec.ofNat 32 (op.toNat * 2 ^ 20 + 1) := by
  revert op
  decide

/-- A field of STATUS below bit 32, as a number. -/
theorem toNat_setWidth_shiftLeft {w k : Nat} (v : BitVec w) (h : w + k ≤ 32) :
    (v.setWidth 32 <<< k).toNat = 2 ^ k * v.toNat := by
  have hv : 2 ^ k * v.toNat < 2 ^ 32 := by
    calc 2 ^ k * v.toNat < 2 ^ k * 2 ^ w := Nat.mul_lt_mul_of_pos_left v.isLt (Nat.two_pow_pos k)
      _ = 2 ^ (w + k) := by rw [← Nat.pow_add, Nat.add_comm]
      _ ≤ 2 ^ 32 := Nat.pow_le_pow_right (by decide) h
  have hw : v.toNat < 2 ^ 32 :=
    lt_of_lt_of_le v.isLt (Nat.pow_le_pow_right (by decide) (by omega))
  rw [BitVec.toNat_shiftLeft, BitVec.toNat_setWidth, Nat.mod_eq_of_lt hw, Nat.shiftLeft_eq,
    Nat.mul_comm, Nat.mod_eq_of_lt hv]

/-- The error word of R194, as arithmetic: its fields do not overlap. -/
theorem statusError_eq (op : BitVec 4) (e : CmdError) :
    statusError op e = errorReport op.toNat e := by
  have hop := op.isLt
  have hindex := e.index.isLt
  have hfield := e.field.val.isLt
  have hcode := e.code.val.isLt
  have hcls := e.code.cls.val.isLt
  apply BitVec.eq_of_toNat_eq
  rw [statusError, errorReport]
  simp only [BitVec.toNat_or, Nat.or_assoc]
  rw [toNat_setWidth_shiftLeft op (by omega), toNat_setWidth_shiftLeft e.index (by omega),
    toNat_setWidth_shiftLeft e.field.val (by omega), toNat_setWidth_shiftLeft e.code.val (by omega),
    toNat_setWidth_shiftLeft e.code.cls.val (by omega),
    ← Nat.two_pow_add_eq_or_of_lt (i := 4) (by omega),
    ← Nat.two_pow_add_eq_or_of_lt (i := 12) (by omega),
    ← Nat.two_pow_add_eq_or_of_lt (i := 16) (by omega),
    ← Nat.two_pow_add_eq_or_of_lt (i := 20) (by omega), BitVec.toNat_ofNat]
  omega

/-- Settles O32: the two words as sums, and the fields read back of an error report. -/
theorem statusFieldsReadBack : Obligations.StatusFieldsReadBack :=
  fun op e => ⟨statusOk_eq op, statusError_eq op e, stOk_statusError op e, stClass_statusError op e,
    stCode_statusError op e, stField_statusError op e, stIndex_statusError op e,
    stOp_statusError op e, stReserved_statusError op e⟩

/-- STATUS reports the completion of a command with opcode `op`: success, or an error. -/
def reportsCompletion (op : BitVec 4) (st : Word) : Prop :=
  st = statusOk op ∨ ∃ e, st = statusError op e

@[simp] theorem stOp_statusOk (op : BitVec 4) : stOp (statusOk op) = op := by
  revert op
  decide

@[simp] theorem stClass_statusOk (op : BitVec 4) : stClass (statusOk op) = 0 := by
  revert op
  decide

theorem ErrClass.val_eq_zero {c : ErrClass} : c.val = 0 ↔ c = .none := by
  cases c <;> decide

theorem stOp_of_reportsCompletion {op : BitVec 4} {st : Word} (h : reportsCompletion op st) :
    stOp st = op := by
  rcases h with rfl | ⟨e, rfl⟩
  · exact stOp_statusOk op
  · exact stOp_statusError op e

/-- OK = 1 and CLASS = NONE, or OK = 0 and the class of an error (R24). -/
theorem stOk_of_reportsCompletion {op : BitVec 4} {st : Word} (h : reportsCompletion op st) :
    (stOk st = true ∧ stClass st = 0) ∨ (stOk st = false ∧ stClass st ≠ 0) := by
  rcases h with rfl | ⟨e, rfl⟩
  · exact .inl ⟨stOk_statusOk op, stClass_statusOk op⟩
  · refine .inr ⟨stOk_statusError op e, ?_⟩
    rw [stClass_statusError, Ne, ErrClass.val_eq_zero]
    exact e.code.cls_ne_none

theorem completeGet_reports (value : DFR → Res) (s : State) :
    reportsCompletion 3 (completeGet value s).status := by
  cases h : s.dfr.valid with
  | true => rw [completeGet_valid value s h]; exact .inl rfl
  | false => rw [completeGet_noFrame value s h]; exact .inr ⟨_, rfl⟩

/-- Every GET has the opcode GET. -/
theorem Instr.op_of_get {i : Instr} (henc : i ≠ .enc) (hdec : i ≠ .dec) : i.op = 3 := by
  cases i
  case enc => exact absurd rfl henc
  case dec => exact absurd rfl hdec
  all_goals rfl

theorem exec_reports {i : Instr} {s t : State} (h : exec i s = .next t) :
    reportsCompletion i.op t.status := by
  rcases exec_cases i with ⟨rfl, heq⟩ | ⟨rfl, heq⟩ | ⟨henc, hdec, value, -, heq⟩ <;>
    rw [heq s] at h
  · rcases execEnc_cases s with ⟨f, -, hs⟩ | ⟨e, -, -, -, -, hs⟩ <;>
      obtain rfl := Host.Outcome.next.inj (hs.symm.trans h)
    · exact .inl rfl
    · exact .inr ⟨e, rfl⟩
  · rcases execDec_cases s with ⟨d, -, hs⟩ | ⟨e, -, -, -, -, hs⟩ <;>
      obtain rfl := Host.Outcome.next.inj (hs.symm.trans h)
    · exact .inl rfl
    · exact .inr ⟨e, rfl⟩
  · obtain rfl := Host.Outcome.next.inj h
    rw [Instr.op_of_get henc hdec]
    exact completeGet_reports value s

theorem issue_reports {w : Word} {s t : State} (h : issue w s = .next t) :
    reportsCompletion (w.extractLsb' 0 4) t.status := by
  rcases issue_cases w s with ⟨i, hi, heq⟩ | ⟨r, -, heq⟩ <;> rw [heq] at h
  · rw [← op_of_decode hi]
    exact exec_reports h
  · obtain rfl := Host.Outcome.next.inj h
    exact .inr ⟨rejectError r, rfl⟩

/-- An error completion writes STATUS over whatever it held. -/
theorem completeError_setStatus (op : BitVec 4) (e : CmdError) (s : State) (v : Word) :
    completeError op e (s.setStatus v) = completeError op e s := by
  unfold completeError
  cases e.code.cls <;> rfl

theorem execEnc_setStatus (s : State) (v : Word) : execEnc (s.setStatus v) = execEnc s := by
  simp only [execEnc, State.setStatus_cfg, State.setStatus_eir, completeError_setStatus]
  rfl

theorem execDec_setStatus (s : State) (v : Word) : execDec (s.setStatus v) = execDec s := by
  simp only [execDec, State.setStatus_ibuf, completeError_setStatus]
  rfl

theorem completeGet_setStatus (value : DFR → Res) (s : State) (v : Word) :
    completeGet value (s.setStatus v) = completeGet value s := by
  simp only [completeGet, State.setStatus_dfr, completeError_setStatus]
  rfl

/-- No command reads STATUS. -/
theorem exec_setStatus (i : Instr) (s : State) (v : Word) : exec i (s.setStatus v) = exec i s := by
  rcases exec_cases i with ⟨-, heq⟩ | ⟨-, heq⟩ | ⟨-, -, value, -, heq⟩ <;> rw [heq, heq]
  · exact execEnc_setStatus s v
  · exact execDec_setStatus s v
  · rw [completeGet_setStatus]

theorem issue_setStatus (w : Word) (s : State) (v : Word) :
    issue w (s.setStatus v) = issue w s := by
  simp only [issue, exec_setStatus, completeError_setStatus]

/-- Settles O31: the completion reports in STATUS, and nothing reads what STATUS held. -/
theorem everyCommandReportsInStatus : Obligations.EveryCommandReportsInStatus := by
  intro s w
  obtain ⟨t, ht⟩ := issue_completes w s
  have hreport := issue_reports ht
  exact ⟨t, ht, stOp_of_reportsCompletion hreport, stOk_of_reportsCompletion hreport,
    fun v => (issue_setStatus w s v).trans ht⟩

end Sys2Proof.Machine
end

section
/-! The checks of DEC: a sequence that decodes meets them all (41_decoder.md R134 to R136,
60_exceptions.md R198). -/

namespace Sys2Proof.Machine

theorem firstFailure_eq_none {l : List (Bool × CmdError)} :
    firstFailure l = none ↔ ∀ c ∈ l, c.1 = true := by
  induction l with
  | nil => simp [firstFailure]
  | cons c l ih =>
    obtain ⟨holds, e⟩ := c
    cases holds <;> simp [firstFailure, ih]

/-! The decoder's bit fields of byte 0 and its 2-byte numbers, as the arithmetic of `decChecks`
(R51, R81). -/

section FrameFields
variable (s : Bytes)

theorem toNat_cc_eq_frameCc : ((byteAt s 0).extractLsb' 0 4).toNat = frameCc s := by
  rw [BitVec.extractLsb'_toNat, Nat.shiftRight_zero]
  rfl

theorem x_eq_frameX : (byteAt s 0).getLsbD 4 = decide (frameX s = 1) := by
  rw [BitVec.getLsbD, Nat.testBit_eq_decide_div_mod_eq]
  rfl

theorem p_eq_frameP : (byteAt s 0).getLsbD 5 = decide (frameP s = 1) := by
  rw [BitVec.getLsbD, Nat.testBit_eq_decide_div_mod_eq]
  rfl

theorem rdBE_two {off : Nat} (h : off + 2 ≤ s.length) : rdBE s off 2 = be16At s off := by
  rw [rdBE_eq_sum h]
  simp [be16At, List.range_succ]
  omega

end FrameFields

/-- A parsed extension lies inside the sequence, and the cursor after it is the header length H
(R89, R135). -/
theorem parseExt_header {s : Bytes} {ext : ParsedExt} (hcsrc : 12 + 4 * frameCc s ≤ s.length)
    (h : parseExt s (12 + 4 * frameCc s) (decide (frameX s = 1)) = .ok ext) :
    (frameX s = 1 → 16 + 4 * frameCc s ≤ s.length) ∧ ext.cur = frameH s
      ∧ frameH s ≤ s.length := by
  rcases parseExt_ok.mp h with ⟨hx, rfl⟩ | ⟨hx, hhead, hblock, rfl⟩
  · have hx : frameX s ≠ 1 := of_decide_eq_false hx
    simp [frameH, hx, hcsrc]
  · have hx : frameX s = 1 := of_decide_eq_true hx
    have hw : rdBE s (12 + 4 * frameCc s + 2) 2 = frameW s := by
      rw [rdBE_two s (by omega), frameW, if_pos hx]
      congr 1
      omega
    rw [hw] at hblock ⊢
    have hH : frameH s = 12 + 4 * frameCc s + (4 + 4 * frameW s) := by rw [frameH, if_pos hx]
    refine ⟨fun _ => by omega, ?_, by omega⟩
    show 12 + 4 * frameCc s + 4 + 4 * frameW s = frameH s
    omega

/-- A parsed payload has its padding count in range (R136). -/
theorem parsePayload_count {s : Bytes} {cur : Nat} {b : Bytes}
    (h : parsePayload s cur (decide (frameP s = 1)) = .ok b) (hp : frameP s = 1) :
    1 ≤ frameN s ∧ frameN s ≤ s.length - cur := by
  rcases parsePayload_ok.mp h with ⟨hp', -⟩ | ⟨-, hlo, hhi, -⟩
  · exact absurd hp (of_decide_eq_false hp')
  · exact ⟨hlo, hhi⟩

theorem decChecks_of_decodeFrame {s : Bytes} {d : DFR} (h : decodeFrame s = .ok d) :
    firstFailure (decChecks s) = none := by
  obtain ⟨hlen, hcsrc, ext, pay, hext, hpay, -⟩ := decodeFrame_ok.mp h
  rw [toNat_cc_eq_frameCc] at hcsrc hext
  rw [x_eq_frameX] at hext
  rw [p_eq_frameP] at hpay
  have hcsrc : 12 + 4 * frameCc s ≤ s.length := by omega
  obtain ⟨hhead, hcur, hH⟩ := parseExt_header hcsrc hext
  have hcount := parsePayload_count hpay
  rw [hcur] at hcount
  rw [firstFailure_eq_none]
  simp only [decChecks, List.forall_mem_cons, decide_eq_true_eq]
  exact ⟨hlen, hcsrc, hhead, hH, hcount, nofun⟩

end Sys2Proof.Machine
end

section
/-! DFR.VALID: only a successful DEC raises it (10_state.md R35). -/

namespace Sys2Proof.Machine

/-- An error completion keeps DFR or resets it. -/
theorem completeError_dfr (op : BitVec 4) (e : CmdError) (s : State) :
    (completeError op e s).dfr = s.dfr ∨ (completeError op e s).dfr = DFR.reset := by
  unfold completeError
  cases e.code.cls
  case malformed => exact .inr rfl
  all_goals exact .inl rfl

theorem completeGet_dfr (value : DFR → Res) (s : State) : (completeGet value s).dfr = s.dfr := by
  cases h : s.dfr.valid with
  | true => rw [completeGet_valid value s h]
  | false => rw [completeGet_noFrame value s h]

theorem writeReg_dfr (r : Reg) (v : HostValue) (s : State) : (writeReg r v s).dfr = s.dfr := by
  rcases writeReg_eq r v s with ⟨e, h, -⟩ | ⟨-, h⟩ <;> rw [h]

section Rises
variable {s t : State} (hs : s.dfr.valid = false) (ht : t.dfr.valid = true)
include hs ht

theorem exec_valid_rises {i : Instr} (h : exec i s = .next t) :
    i = .dec ∧ t.status = statusOk 2 ∧ ∃ d, decodeFrame s.ibuf = .ok d := by
  rcases exec_cases i with ⟨-, heq⟩ | ⟨hi, heq⟩ | ⟨-, -, value, -, heq⟩ <;> rw [heq s] at h
  · obtain ⟨st, o, hnext⟩ := execEnc_writes s
    obtain rfl := Host.Outcome.next.inj (hnext.symm.trans h)
    exact absurd (hs.symm.trans ht) nofun
  · rcases execDec_cases s with ⟨d, hd, hnext⟩ | ⟨e, -, -, -, -, hnext⟩ <;>
      obtain rfl := Host.Outcome.next.inj (hnext.symm.trans h)
    · exact ⟨hi, rfl, d, hd⟩
    · exact absurd ht nofun
  · obtain rfl := Host.Outcome.next.inj h
    rw [completeGet_dfr] at ht
    exact absurd (hs.symm.trans ht) nofun

theorem issue_valid_rises {w : Word} (h : issue w s = .next t) :
    w = encode .dec ∧ t.status = statusOk 2 ∧ ∃ d, decodeFrame s.ibuf = .ok d := by
  rcases issue_cases w s with ⟨i, hi, heq⟩ | ⟨r, -, heq⟩ <;> rw [heq] at h
  · obtain ⟨rfl, hrest⟩ := exec_valid_rises hs ht h
    exact ⟨eq_encode_of_decode hi, hrest⟩
  · obtain rfl := Host.Outcome.next.inj h
    rcases completeError_dfr (w.extractLsb' 0 4) (rejectError r) s with hd | hd <;> rw [hd] at ht
    · exact absurd (hs.symm.trans ht) nofun
    · exact absurd ht nofun

/-- The only action that raises DFR.VALID is the write of DEC's word to CMD. -/
theorem perform_valid_rises {a : HostAction} (h : perform a s = .next t) :
    a = .write 0x00 (.int 0x00000002) ∧ t.status = statusOk 2
      ∧ ∃ d, decodeFrame s.ibuf = .ok d := by
  cases a with
  | write n v =>
    obtain ⟨r, hn, hadm, ⟨rfl, hissue⟩ | ⟨-, rfl⟩⟩ := hostWrite_next.mp h
    · obtain ⟨hw, hrest⟩ := issue_valid_rises hs ht hissue
      rw [eq_zero_of_regOfNumber_cmd hn, eq_int_of_hostWord hadm, hw]
      exact ⟨rfl, hrest⟩
    · rw [writeReg_dfr] at ht
      exact absurd (hs.symm.trans ht) nofun
  | read n =>
    obtain ⟨r, v, -, -, rfl⟩ := hostRead_next.mp h
    exact absurd (hs.symm.trans ht) nofun
  | reset =>
    obtain rfl := Host.Outcome.next.inj h
    exact absurd ht nofun

end Rises

/-- Settles O44, by cases on the action the step performs. -/
theorem validRisesOnlyBySuccessfulDec : Obligations.ValidRisesOnlyBySuccessfulDec := by
  intro s t h hs ht
  rcases step_cases s with ⟨-, heq⟩ | ⟨a, rest, hpending, heq⟩ <;> rw [heq] at h
  · obtain rfl := Host.Outcome.next.inj h
    exact absurd (hs.symm.trans ht) nofun
  · obtain ⟨rfl, hstatus, d, hd⟩ := perform_valid_rises (s := s.setPending rest) hs ht h
    exact ⟨rest, hpending, decChecks_of_decodeFrame hd, hstatus⟩

end Sys2Proof.Machine
end

section
/-! The register map as the table of R57, and the host accesses R58 admits. -/

namespace Sys2Proof.Machine

@[simp] theorem regNumber_eCsrc_toNat (k : Fin 15) :
    (regNumber (.eCsrc k)).toNat = 0x10 + k.val := by
  simp [regNumber]
  omega

@[simp] theorem regNumber_resWords_toNat (k : Fin 15) :
    (regNumber (.resWords k)).toNat = 0x40 + k.val := by
  simp [regNumber]
  omega

/-- A number names at most the register that has it: `regOfNumber` is the inverse of `regNumber`. -/
theorem regOfNumber_eq_some {n : BitVec 8} {r : Reg} :
    regOfNumber n = some r ↔ regNumber r = n := by
  have hinv : ∀ m : BitVec 8, (regOfNumber m).all (fun q => regNumber q == m) = true := by decide
  constructor
  · intro h
    simpa [h] using hinv n
  · rintro rfl
    exact regOfNumber_regNumber r

/-- The numbers that name no register are those between the table's blocks, and above it. -/
theorem toNat_of_regOfNumber_none {n : BitVec 8} (h : regOfNumber n = none) :
    (0x0D < n.toNat ∧ n.toNat < 0x10) ∨ n.toNat = 0x1F ∨ (0x21 < n.toNat ∧ n.toNat < 0x30)
      ∨ (0x34 < n.toNat ∧ n.toNat < 0x40) ∨ 0x4E < n.toNat := by
  revert n
  decide

theorem refuseBit_eq_none {r : Reg} {v : Int} :
    refuseBit r (.int v) = none ↔ v = 0 ∨ v = 1 := by
  simp [refuseBit, or_iff_not_imp_left]

/-- The writes R58 admits to a register are those `writeAdmitted` lists at its number. -/
theorem writeAdmitted_regNumber (c : Config) (r : Reg) (v : HostValue) :
    writeAdmitted c (regNumber r).toNat v ↔ refuseWrite c r v = none := by
  cases v with
  | int v =>
    cases r
    case eCsrc k | resWords k =>
      simp [writeAdmitted, isS64Number, refuseWrite, refuseInt_eq_none]
      omega
    all_goals
      simp [writeAdmitted, isS64Number, regNumber, refuseWrite, refuseInt_eq_none,
        refuseBit_eq_none, refuseBytes]
  | bytes b =>
    cases r
    case eCsrc k | resWords k =>
      simp [writeAdmitted, refuseWrite, refuseInt]
      omega
    all_goals
      simp [writeAdmitted, regNumber, refuseWrite, refuseInt, refuseBit, refuseBytes_eq_none]

theorem not_writeAdmitted_of_noRegister {c : Config} {n : BitVec 8} {v : HostValue}
    (h : regOfNumber n = none) : ¬ writeAdmitted c n.toNat v := by
  have hgap := toNat_of_regOfNumber_none h
  cases v <;> simp only [writeAdmitted, isS64Number] <;> omega

/-- A write has a step exactly when it names a register that admits it; a command it issues always
completes. -/
theorem writeAdmitted_iff_next {s : State} {n : BitVec 8} {v : HostValue} :
    writeAdmitted s.cfg n.toNat v ↔ ∃ t, hostWrite n v s = .next t := by
  simp only [hostWrite_next]
  cases h : regOfNumber n with
  | none => simp [not_writeAdmitted_of_noRegister h]
  | some r =>
    obtain rfl := regOfNumber_eq_some.mp h
    rw [writeAdmitted_regNumber]
    constructor
    · intro hadm
      by_cases hr : r = .cmd
      · obtain ⟨t, ht⟩ := issue_completes (hostWord v) s
        exact ⟨t, r, rfl, hadm, .inl ⟨hr, ht⟩⟩
      · exact ⟨_, r, rfl, hadm, .inr ⟨hr, rfl⟩⟩
    · rintro ⟨t, q, ⟨⟩, hadm, -⟩
      exact hadm

/-- A register has a value to read exactly when its access is R or RW. -/
theorem isSome_readReg (r : Reg) (s : State) : (readReg r s).isSome = regReadable r := by
  cases r <;> rfl

theorem isReadableNumber_regNumber (r : Reg) :
    isReadableNumber (regNumber r).toNat ↔ regReadable r = true := by
  cases r
  case eCsrc k | resWords k =>
    simp [isReadableNumber, regReadable]
    omega
  all_goals simp [isReadableNumber, regNumber, regReadable]

/-- A read has a step exactly when it names a register of access R or RW. -/
theorem isReadableNumber_iff_next {s : State} {n : BitVec 8} :
    isReadableNumber n.toNat ↔ ∃ t, hostRead n s = .next t := by
  simp only [hostRead_next]
  cases h : regOfNumber n with
  | none =>
    have hgap := toNat_of_regOfNumber_none h
    have hnot : ¬ isReadableNumber n.toNat := by
      rw [isReadableNumber]
      omega
    simp [hnot]
  | some r =>
    obtain rfl := regOfNumber_eq_some.mp h
    simp [isReadableNumber_regNumber, ← isSome_readReg r s, Option.isSome_iff_exists]

/-- A host read has a step or is refused. -/
theorem hostRead_total (n : BitVec 8) (s : State) :
    (∃ t, hostRead n s = .next t) ∨ ∃ why, hostRead n s = .refused why := by
  unfold hostRead
  cases regOfNumber n with
  | none => exact .inr ⟨_, rfl⟩
  | some r =>
    cases h : readReg r s with
    | none => exact .inr ⟨.writeOnly r, by simp [h]⟩
    | some v => exact .inl ⟨s.addReturned v, by simp [h]⟩

/-- Settles O34: an access has a step exactly when the table admits it, and is refused otherwise. -/
theorem accessesAreAdmittedOrRefused : Obligations.AccessesAreAdmittedOrRefused := by
  intro s n v
  exact ⟨writeAdmitted_iff_next.mp,
    fun hnot => (hostWrite_total n v s).resolve_left (mt writeAdmitted_iff_next.mpr hnot),
    isReadableNumber_iff_next.mp,
    fun hnot => (hostRead_total n s).resolve_left (mt isReadableNumber_iff_next.mpr hnot)⟩

/-- Settles O33: the single registers one by one, the arrays for every index, and the inverse. -/
theorem registerMapIsTheTable : Obligations.RegisterMapIsTheTable :=
  ⟨rfl, fun k => ⟨regNumber_eCsrc_toNat k, rfl, rfl⟩,
    fun k => ⟨regNumber_resWords_toNat k, rfl, rfl⟩, fun _ _ => regOfNumber_eq_some⟩

/-- The value a read has returned is no register. -/
theorem readReg_addReturned (r : Reg) (s : State) (v : HostValue) :
    readReg r (s.addReturned v) = readReg r s := by
  cases r <;> rfl

theorem hostRead_regNumber {r : Reg} {s : State} {v : HostValue} (h : readReg r s = some v) :
    hostRead (regNumber r) s = .next (s.addReturned v) :=
  hostRead_next.mpr ⟨r, v, regOfNumber_regNumber r, h, rfl⟩

/-- A read and the read after it return the same value (R56). -/
theorem hostRead_regNumber_twice {r : Reg} {s : State} {v : HostValue} (h : readReg r s = some v) :
    hostRead (regNumber r) s = .next (s.addReturned v)
      ∧ hostRead (regNumber r) (s.addReturned v) = .next ((s.addReturned v).addReturned v) :=
  ⟨hostRead_regNumber h, hostRead_regNumber ((readReg_addReturned r s v).trans h)⟩

/-- Settles O37: each readable register by its number. -/
theorem readsReturnTheRegister : Obligations.ReadsReturnTheRegister := by
  intro s
  refine ⟨hostRead_regNumber_twice (r := .status) rfl, hostRead_regNumber_twice (r := .ibuf) rfl,
    hostRead_regNumber_twice (r := .obuf) rfl, hostRead_regNumber_twice (r := .resTag) ?_,
    hostRead_regNumber_twice (r := .resUint) rfl, hostRead_regNumber_twice (r := .resCount) rfl,
    hostRead_regNumber_twice (r := .resProfile) rfl, hostRead_regNumber_twice (r := .resBytes) rfl,
    fun k => ?_⟩
  · rw [readReg]
    cases s.res.tag <;> rfl
  · have hnum : BitVec.ofNat 8 (0x40 + k.val) = regNumber (.resWords k) := BitVec.ofNat_add ..
    rw [hnum]
    exact hostRead_regNumber_twice rfl

end Sys2Proof.Machine
end

section
/-! The order of the host's actions, and which of several machines each goes to
(20_memory.md R59, R63). -/

namespace Sys2Proof.Machine

/-- Settles O9, by what a step leaves. -/
theorem stepPerformsOldestActionOrIdles : Obligations.StepPerformsOldestActionOrIdles := by
  intro s
  rcases step_cases s with ⟨hnil, hstep⟩ | ⟨b, l, hcons, hstep⟩
  · exact ⟨fun _ => hstep, fun a rest h => absurd (hnil.symm.trans h) nofun⟩
  · refine ⟨fun h => absurd (hcons.symm.trans h) nofun, fun a rest h => ?_⟩
    obtain ⟨rfl, rfl⟩ := List.cons.inj (hcons.symm.trans h)
    exact hstep

section Instances
variable {sys : List State} {k : Nat} {s : State} {a : HostAction} (hk : sys[k]? = some s)
include hk

theorem performAt_next {t : State} (h : perform a s = .next t) :
    performAt k a sys = .next (sys.set k t) := by
  rw [performAt, hk]
  simp only [h]

theorem performAt_refused {why : Refusal} (h : perform a s = .refused why) :
    performAt k a sys = .refused why := by
  rw [performAt, hk]
  simp only [h]

end Instances

/-- Settles O40: the action sets entry k of the list alone. -/
theorem instancesShareNothing : Obligations.InstancesShareNothing := by
  intro sys k s a hk
  obtain ⟨hlt, -⟩ := List.getElem?_eq_some_iff.mp hk
  exact ⟨fun t ht => ⟨sys.set k t, performAt_next hk ht, List.getElem?_set_self hlt,
    fun j hj => List.getElem?_set_ne hj.symm⟩, fun why => performAt_refused hk⟩

end Sys2Proof.Machine
end

section
/-! DecodeCmd by its clauses: first over the fields of the word, then over the word as a number
(30_encoding.md R70 to R75). -/

namespace Sys2Proof.Machine

section Clauses
variable {w : Word}

theorem decode_of_op_illegal (h1 : (CmdFields.ofWord w).op ≠ 1) (h2 : (CmdFields.ofWord w).op ≠ 2)
    (h3 : (CmdFields.ofWord w).op ≠ 3) : decode w = .error .illegalOp :=
  if_pos ⟨h1, h2, h3⟩

theorem decode_of_rsvd_ne_zero
    (hop : (CmdFields.ofWord w).op = 1 ∨ (CmdFields.ofWord w).op = 2 ∨ (CmdFields.ofWord w).op = 3)
    (hrsvd : (CmdFields.ofWord w).rsvd ≠ 0) : decode w = .error .reservedBits := by
  have hlegal : ¬ ((CmdFields.ofWord w).op ≠ 1 ∧ (CmdFields.ofWord w).op ≠ 2
      ∧ (CmdFields.ofWord w).op ≠ 3) := fun ⟨h1, h2, h3⟩ => hop.elim h1 (·.elim h2 h3)
  exact (if_neg hlegal).trans (if_pos hrsvd)

/-- A nonzero FID with ENC or DEC is the same rejection whatever RSVD is (R72). -/
theorem decode_of_fid_ne_zero
    (hop : (CmdFields.ofWord w).op = 1 ∨ (CmdFields.ofWord w).op = 2)
    (hfid : (CmdFields.ofWord w).fid ≠ 0) : decode w = .error .reservedBits := by
  by_cases hrsvd : (CmdFields.ofWord w).rsvd = 0
  · rcases hop with hop | hop <;> simpa [decode, hop, hrsvd] using hfid
  · exact decode_of_rsvd_ne_zero (hop.imp_right .inl) hrsvd

theorem decode_of_op_enc (hop : (CmdFields.ofWord w).op = 1) (hrsvd : (CmdFields.ofWord w).rsvd = 0)
    (hfid : (CmdFields.ofWord w).fid = 0) : decode w = .ok .enc := by
  simp [decode, hop, hrsvd, hfid]

theorem decode_of_op_dec (hop : (CmdFields.ofWord w).op = 2) (hrsvd : (CmdFields.ofWord w).rsvd = 0)
    (hfid : (CmdFields.ofWord w).fid = 0) : decode w = .ok .dec := by
  simp [decode, hop, hrsvd, hfid]

theorem decode_of_op_get (hop : (CmdFields.ofWord w).op = 3)
    (hrsvd : (CmdFields.ofWord w).rsvd = 0) : decode w = getOfFid (CmdFields.ofWord w).fid := by
  simp [decode, hop, hrsvd]

end Clauses

theorem ofWord_op_eq_iff {w : Word} (v : BitVec 4) :
    (CmdFields.ofWord w).op = v ↔ w.toNat % 16 = v.toNat := by
  simp [← BitVec.toNat_inj, CmdFields.ofWord]

theorem ofWord_fid_eq_iff {w : Word} (v : BitVec 4) :
    (CmdFields.ofWord w).fid = v ↔ w.toNat / 16 % 16 = v.toNat := by
  simp [← BitVec.toNat_inj, CmdFields.ofWord, Nat.shiftRight_eq_div_pow]

theorem ofWord_rsvd_eq_zero_iff {w : Word} :
    (CmdFields.ofWord w).rsvd = 0 ↔ w.toNat / 256 = 0 := by
  have hlt : w.toNat / 256 < 2 ^ 24 := by omega
  rw [← BitVec.toNat_inj, CmdFields.ofWord, BitVec.extractLsb'_toNat, Nat.shiftRight_eq_div_pow,
    Nat.mod_eq_of_lt hlt]
  rfl

/-- The table of R73: FID 0 to 10 select the GETs in the order of the field identifiers. -/
theorem getOfFid_named {fid : BitVec 4} (h : fid.toNat ≤ 10) :
    some (getOfFid fid) = ([.getVersion, .getPadding, .getExtension, .getMarker, .getPayloadType,
      .getSequenceNumber, .getTimestamp, .getSsrc, .getCsrcs, .getExtensionHeader,
      .getPayload] : List Instr)[fid.toNat]?.map .ok := by
  revert fid
  decide

theorem getOfFid_unnamed {fid : BitVec 4} (h : 11 ≤ fid.toNat) :
    getOfFid fid = .error (.unknownField fid) := by
  revert fid
  decide

/-- A GET whose FID names no field is rejected by name (R74, log 10). -/
theorem decode_of_fid_unnamed {w : Word} (hop : w.toNat % 16 = 3) (hrsvd : w.toNat / 256 = 0)
    (hfid : 11 ≤ w.toNat / 16 % 16) :
    decode w = .error (.unknownField (BitVec.ofNat 4 (w.toNat / 16 % 16))) := by
  have hf : (CmdFields.ofWord w).fid = BitVec.ofNat 4 (w.toNat / 16 % 16) :=
    (ofWord_fid_eq_iff _).mpr (by simp)
  rw [decode_of_op_get ((ofWord_op_eq_iff 3).mpr hop) (ofWord_rsvd_eq_zero_iff.mpr hrsvd), hf]
  exact getOfFid_unnamed (by simpa using hfid)

/-- Settles O2: a word that decodes has its command's fields, and an encoding decodes to its
command. -/
theorem decodeAndEncodeAgree : Obligations.DecodeAndEncodeAgree :=
  fun _ i => ⟨eq_encode_of_decode, fun h => h ▸ decode_encode i⟩

/-- Settles O3, clause by clause of DecodeCmd. -/
theorem decodeCmdOfEveryWord : Obligations.DecodeCmdOfEveryWord := by
  intro w op fid rsvd
  have hop (v : BitVec 4) : op = v.toNat → (CmdFields.ofWord w).op = v := (ofWord_op_eq_iff v).mpr
  have hne (v : BitVec 4) : op ≠ v.toNat → (CmdFields.ofWord w).op ≠ v :=
    mt (ofWord_op_eq_iff v).mp
  have hrsvd : rsvd = 0 → (CmdFields.ofWord w).rsvd = 0 := ofWord_rsvd_eq_zero_iff.mpr
  have hfid : fid = 0 → (CmdFields.ofWord w).fid = 0 := (ofWord_fid_eq_iff 0).mpr
  refine ⟨fun h1 h2 h3 => decode_of_op_illegal (hne 1 h1) (hne 2 h2) (hne 3 h3),
    fun ho hr => decode_of_rsvd_ne_zero (ho.imp (hop 1) (.imp (hop 2) (hop 3)))
      (mt ofWord_rsvd_eq_zero_iff.mp hr),
    fun ho _ hf => decode_of_fid_ne_zero (ho.imp (hop 1) (hop 2)) (mt (ofWord_fid_eq_iff 0).mp hf),
    fun ho hr hf => decode_of_op_enc (hop 1 ho) (hrsvd hr) (hfid hf),
    fun ho hr hf => decode_of_op_dec (hop 2 ho) (hrsvd hr) (hfid hf),
    fun ho hr hf => ?_, decode_of_fid_unnamed⟩
  have hnat : fid = (CmdFields.ofWord w).fid.toNat := (ofWord_fid_eq_iff _).mp rfl
  rw [decode_of_op_get (hop 3 ho) (hrsvd hr), hnat]
  exact getOfFid_named (hnat ▸ hf)

theorem CmdFields.wf_iff {f : CmdFields} :
    f.wf = true ↔ (f.op = 1 ∨ f.op = 2 ∨ f.op = 3) ∧ f.rsvd = 0 ∧ (f.op = 3 ∨ f.fid = 0)
      ∧ (f.op = 3 → f.fid.toNat ≤ 10) := by
  simp [CmdFields.wf, CmdFields.opLegal, CmdFields.rsvdZero, CmdFields.fidZeroUnlessGet,
    CmdFields.fieldNamed, and_assoc, or_assoc, imp_iff_not_or]

/-- The fields of a command's encoding pass every check. -/
theorem wf_encode (i : Instr) :
    CmdFields.wf { op := i.op, fid := i.fid, rsvd := 0 } = true := by
  cases i <;> rfl

theorem getOfFid_isOk {fid : BitVec 4} (h : fid.toNat ≤ 10) : ∃ i, getOfFid fid = .ok i := by
  have hnamed := getOfFid_named h
  cases hget : getOfFid fid with
  | ok i => exact ⟨i, rfl⟩
  | error r => simp [hget, eq_comm (a := some _)] at hnamed

/-- Settles O4: an accepted word has the fields of its command, and words that pass the checks fall
under the three accepting clauses of DecodeCmd. -/
theorem decodeAcceptsExactlyWellFormedFields :
    Obligations.DecodeAcceptsExactlyWellFormedFields := by
  intro w
  constructor
  · rintro ⟨i, hi⟩
    rw [ofWord_of_decode hi]
    exact wf_encode i
  · intro h
    obtain ⟨hop, hrsvd, hfid, hnamed⟩ := CmdFields.wf_iff.mp h
    rcases hop with hop | hop | hop
    · exact ⟨.enc, decode_of_op_enc hop hrsvd (hfid.resolve_left (by simp [hop]))⟩
    · exact ⟨.dec, decode_of_op_dec hop hrsvd (hfid.resolve_left (by simp [hop]))⟩
    · rw [decode_of_op_get hop hrsvd]
      exact getOfFid_isOk (hnamed hop)

/-- Settles O1: each number is the encoding of its command. -/
theorem tableWordsDecodeToTheirCommands : Obligations.TableWordsDecodeToTheirCommands :=
  ⟨decode_encode .enc, decode_encode .dec, decode_encode .getVersion, decode_encode .getPadding,
    decode_encode .getExtension, decode_encode .getMarker, decode_encode .getPayloadType,
    decode_encode .getSequenceNumber, decode_encode .getTimestamp, decode_encode .getSsrc,
    decode_encode .getCsrcs, decode_encode .getExtensionHeader, decode_encode .getPayload⟩

end Sys2Proof.Machine
end

section
/-! Words without a row of the opcode table: what issuing one writes (30_encoding.md R72, R74,
60_exceptions.md R194, R195). -/

namespace Sys2Proof.Machine

/-- The report of a rejected word: FIELD and INDEX are 0 in it. -/
theorem errorReport_rejectError (op : Nat) (r : CmdReject) :
    errorReport op (rejectError r) = BitVec.ofNat 32 (op * 2 ^ 20
      + ((rejectError r).code.val.toNat * 2 ^ 4 + (rejectError r).code.cls.val.toNat * 2)) := by
  obtain ⟨hfield, hindex⟩ := rejectError_names_none r
  simp [errorReport, hfield, hindex, InputField.val, Nat.add_assoc]

section Rejected
variable {w : Word} {r : CmdReject} (h : decode w = .error r) (s : State)
include h

theorem issue_of_reject :
    issue w s = .next (completeError (w.extractLsb' 0 4) (rejectError r) s) := by
  rw [issue, h]

/-- A COMMAND error writes STATUS alone, with bits 3:0 of the word as its OP. -/
theorem issue_of_command_error (hcls : (rejectError r).code.cls = .command) :
    issue w s = .next { s with status := BitVec.ofNat 32 (w.toNat % 16 * 2 ^ 20
      + ((rejectError r).code.val.toNat * 2 ^ 4 + (rejectError r).code.cls.val.toNat * 2)) } := by
  have hop : (w.extractLsb' 0 4).toNat = w.toNat % 16 := by simp
  rw [issue_of_reject h, completeError_command _ _ _ hcls, statusError_eq, hop,
    errorReport_rejectError]

end Rejected

theorem issue_illegalOp {w : Word} (h : decode w = .error .illegalOp) (s : State) :
    issue w s = .next { s with status := BitVec.ofNat 32 (w.toNat % 16 * 2 ^ 20 + 0x608) } :=
  issue_of_command_error h s rfl

theorem issue_reservedBits {w : Word} (h : decode w = .error .reservedBits) (s : State) :
    issue w s = .next { s with status := BitVec.ofNat 32 (w.toNat % 16 * 2 ^ 20 + 0x618) } :=
  issue_of_command_error h s rfl

/-- Settles O5: DecodeCmd rejects the word with a COMMAND error. -/
theorem illegalWordsWriteOnlyStatus : Obligations.IllegalWordsWriteOnlyStatus := by
  intro s w op fid rsvd
  obtain ⟨hillegal, hreserved, -⟩ := decodeCmdOfEveryWord w
  refine ⟨fun h1 h2 h3 => issue_illegalOp (hillegal h1 h2 h3) s,
    fun ho hr => issue_reservedBits (hreserved ho hr) s, fun ho hf => issue_reservedBits ?_ s⟩
  exact decode_of_fid_ne_zero (ho.imp (ofWord_op_eq_iff 1).mpr (ofWord_op_eq_iff 2).mpr)
    (mt (ofWord_fid_eq_iff 0).mp hf)

/-- Settles O6: the word is rejected with UNKNOWN_FIELD, an ACCESSOR error of OP 3. -/
theorem unknownFieldReportsAndClearsResult : Obligations.UnknownFieldReportsAndClearsResult := by
  intro s fid hlo hhi
  have hnat : (BitVec.ofNat 32 (0x03 + 0x10 * fid)).toNat = 0x03 + 0x10 * fid := by
    rw [BitVec.toNat_ofNat]
    omega
  have hop : (BitVec.ofNat 32 (0x03 + 0x10 * fid)).extractLsb' 0 4 = 3 :=
    (ofWord_op_eq_iff 3).mpr (by rw [hnat]; exact Nat.add_mul_mod_self_left 3 16 fid)
  have hreject := decode_of_fid_unnamed (w := BitVec.ofNat 32 (0x03 + 0x10 * fid))
    (by omega) (by omega) (by omega)
  have hstatus : statusError 3 ⟨.unknownField, .none, 0⟩ = 0x00300506 := by decide
  rw [issue_of_reject hreject, hop, completeError_accessor _ _ _ rfl, rejectError, hstatus]

end Sys2Proof.Machine
end

section
/-! Host programs: the action of each assembler line, and GET f1, ..., fn by its first GET
(30_encoding.md R76, R77). -/

namespace Sys2Proof.Machine

theorem issue_encode (i : Instr) (s : State) : issue (encode i) s = exec i s :=
  issue_of_decode (decode_encode i) s

/-- The word of an assembler GET is the command's encoding. -/
theorem asmAction_get (f : FieldId) :
    asmAction (.get f) = .write (regNumber .cmd) (.int (encode f.instr).toNat) := by
  cases f <;> rfl

/-- Settles O38: every line that is a command writes its word to CMD. -/
theorem assemblerLinesIssueTheirWords : Obligations.AssemblerLinesIssueTheirWords := by
  intro s
  refine ⟨hostWrite_cmd 0x00000001 s, hostWrite_cmd 0x00000002 s, fun f => ?_,
    fun w => hostWrite_cmd w s, fun _ _ => rfl, fun _ => rfl⟩
  rw [asmAction_get, ← issue_encode]
  exact hostWrite_cmd (encode f.instr) s

/-- The RES value that the GET of a field identifier takes from the frame (R161 to R171). -/
def fieldValue (f : FieldId) (d : DFR) : Res :=
  (getValue f.instr).elim Res.reset (· d)

theorem exec_fieldInstr (f : FieldId) (s : State) :
    exec f.instr s = .next (completeGet (fieldValue f) s) := by
  cases f <;> rfl

theorem exec_fieldInstr_valid (f : FieldId) {s : State} (h : s.dfr.valid = true) :
    exec f.instr s = .next { s with status := statusOk 3, res := fieldValue f s.dfr } := by
  rw [exec_fieldInstr, completeGet_valid _ _ h]

theorem exec_fieldInstr_noFrame (f : FieldId) {s : State} (h : s.dfr.valid = false) :
    exec f.instr s
      = .next { s with status := statusError 3 ⟨.noFrame, .none, 0⟩, res := Res.reset } := by
  rw [exec_fieldInstr, completeGet_noFrame _ _ h]

section Cons
variable {f : FieldId} {fs : List FieldId} {s t : State} (ht : exec f.instr s = .next t)
include ht

/-- After a GET that succeeds the expansion goes on from the state it left. -/
theorem getList_cons_of_ok {u : State} {r : GetListResult} (hok : stOk t.status = true)
    (hrest : getList fs t = .next (u, r)) : getList (f :: fs) s = .next (u, r.push t.res) := by
  rw [getList, issue_encode, ht]
  simp only [hok, if_true, hrest]

/-- After a GET that fails the expansion stops. -/
theorem getList_cons_of_error (hok : stOk t.status = false) :
    getList (f :: fs) s = .next (t, .failed t.status) := by
  rw [getList, issue_encode, ht]
  simp [hok]

end Cons

/-- On a decoded frame every GET of the list succeeds, and only RES and STATUS are written. -/
theorem getList_of_valid (f : FieldId) (fs : List FieldId) {s : State} (h : s.dfr.valid = true) :
    ∃ r, getList (f :: fs) s = .next ({ s with status := statusOk 3, res := r },
      .values ((f :: fs).map (fieldValue · s.dfr))) := by
  have hok := stOk_statusOk 3
  induction fs generalizing f s with
  | nil => exact ⟨_, getList_cons_of_ok (r := .values []) (exec_fieldInstr_valid f h) hok rfl⟩
  | cons g gs ih =>
    obtain ⟨r, hr⟩ := ih g (s := { s with status := statusOk 3, res := fieldValue f s.dfr }) h
    exact ⟨r, getList_cons_of_ok (exec_fieldInstr_valid f h) hok hr⟩

/-- Settles O39, by induction on the list for a decoded frame, and by its first GET without one. -/
theorem getListReturnsValuesOrFirstError : Obligations.GetListReturnsValuesOrFirstError := by
  intro s f fs
  constructor
  · intro h
    obtain ⟨r, hr⟩ := getList_of_valid f fs h
    refine ⟨_, _, hr, by simp, rfl, rfl, fun k g hg => ?_⟩
    exact ⟨_, exec_fieldInstr_valid g h, by rw [List.getElem?_map, hg]; rfl⟩
  · intro h
    have hok : stOk 0x00300516 = false := by decide
    exact getList_cons_of_error (exec_fieldInstr_noFrame f h) hok

end Sys2Proof.Machine
end

section
/-! ENC's inputs as numbers: a frame that validation gives is held in EIR inside its domains, and
inputs in their domains are a frame's (10_state.md R25, 40_encoder.md R101). -/

namespace Sys2Proof.Machine

/-- The extension input, its profile as a number. -/
def ExtInput.nat (x : ExtInput) : Nat × Bytes := (x.profile.toNat, x.block)

/-- EIR holds the fields of the frame, each as the number it stands for. -/
def Frame.heldIn (f : Frame) (e : EIR) : Prop :=
  EncInputs e f.ssrc.toNat f.pt.toNat f.seq.toNat f.ts.toNat f.pad.toNat f.version.toNat
    (f.csrcs.map BitVec.toNat) (f.ext.map ExtInput.nat) f.payload

theorem Frame.csrcs_length_le {f : Frame} {e : EIR} (h : f.heldIn e) : f.csrcs.length ≤ 15 := by
  simpa using h.csrcN.2

/-- A register holds the number of a w-bit field exactly when it holds the field. -/
theorem inDomain_toNat {r : Option S64} {w : Nat} {x : BitVec w} :
    inDomain r w x.toNat ↔ ∃ v, r = some v ∧ v.toInt = (x.toNat : Int) := by
  simp only [inDomain, x.isLt, and_true]

/-- The CSRC list is read exactly when the count is its length and each register holds its entry. -/
theorem readCsrcList_ok_iff_inDomain {e : EIR} {l : List Word} :
    readCsrcList e = .ok l ↔ (e.csrcN.value.toInt = ((l.map BitVec.toNat).length : Int)
        ∧ (l.map BitVec.toNat).length ≤ 15)
      ∧ ∀ k (h : k < (l.map BitVec.toNat).length),
          inDomain (e.csrc[k]?).join 32 (l.map BitVec.toNat)[k] := by
  simp [readCsrcList_ok, inDomain_toNat, and_assoc]

/-- The extension is read exactly when E_XPRESENT says whether there is one, and its two registers
hold it. -/
theorem readExt_ok_iff_inDomain {e : EIR} {x : Option ExtInput} :
    readExt e = .ok x ↔ (x.map ExtInput.nat = none → e.xpresent.value = false)
      ∧ ∀ p b, x.map ExtInput.nat = some (p, b) → e.xpresent.value = true
        ∧ inDomain e.xprofile 16 p ∧ e.xblock = some b ∧ (b.length + 3) / 4 ≤ 65535 := by
  rw [readExt_ok]
  cases x with
  | none => simp
  | some y =>
    constructor
    · rintro (⟨-, ⟨⟩⟩ | ⟨hx, _, ⟨⟩, hblock, hwords, hprofile⟩)
      refine ⟨nofun, ?_⟩
      rintro _ _ ⟨⟩
      exact ⟨hx, inDomain_toNat.mpr hprofile, hblock, hwords⟩
    · rintro ⟨-, h⟩
      obtain ⟨hx, hprofile, hblock, hwords⟩ := h _ _ rfl
      exact .inr ⟨hx, y, rfl, hblock, hwords, inDomain_toNat.mp hprofile⟩

/-- Validation gives a frame exactly when EIR holds it and it fits OBUF. -/
theorem validate_ok_iff_heldIn {c : Config} {e : EIR} {f : Frame} :
    validate c e = .ok f ↔ f.heldIn e ∧ e.marker.value = f.marker ∧ f.total ≤ c.obufCap := by
  rw [validate_ok]
  constructor
  · rintro ⟨hssrc, hpt, hpay, hseq, hts, hcsrc, hpad, hext, hver, hrest⟩
    obtain ⟨hn, hcs⟩ := readCsrcList_ok_iff_inDomain.mp hcsrc
    obtain ⟨habs, hpres⟩ := readExt_ok_iff_inDomain.mp hext
    exact ⟨⟨inDomain_toNat.mpr hssrc, inDomain_toNat.mpr hpt, hpay, inDomain_toNat.mpr hseq,
      inDomain_toNat.mpr hts, hn, hcs, ⟨hpad, Nat.le_of_lt_succ f.pad.isLt⟩, habs, hpres,
      ⟨hver, Nat.le_of_lt_succ f.version.isLt⟩⟩, hrest⟩
  · rintro ⟨h, hrest⟩
    exact ⟨inDomain_toNat.mp h.ssrc, inDomain_toNat.mp h.pt, h.payload, inDomain_toNat.mp h.seq,
      inDomain_toNat.mp h.ts, readCsrcList_ok_iff_inDomain.mpr ⟨h.csrcN, h.csrcs⟩, h.pad.1,
      readExt_ok_iff_inDomain.mpr ⟨h.absent, h.present⟩, h.version.1, hrest⟩

theorem inDomain.lt {r : Option S64} {w v : Nat} (h : inDomain r w v) : v < 2 ^ w := by
  obtain ⟨_, _, _, hlt⟩ := h
  exact hlt

/-- Numbers below 2^32 are those of a list of CSRC entries. -/
theorem exists_map_toNat_eq {l : List Nat} (h : ∀ c ∈ l, c < 2 ^ 32) :
    ∃ ws : List Word, ws.map BitVec.toNat = l := by
  refine ⟨l.map (BitVec.ofNat 32), ?_⟩
  rw [List.map_map]
  refine (List.map_congr_left fun c hc => ?_).trans l.map_id
  exact Nat.mod_eq_of_lt (h c hc)

/-- A profile below 2^16 and a block are an extension input. -/
theorem exists_map_nat_eq {x : Option (Nat × Bytes)} (h : ∀ p b, x = some (p, b) → p < 2 ^ 16) :
    ∃ y : Option ExtInput, y.map ExtInput.nat = x := by
  cases x with
  | none => exact ⟨none, rfl⟩
  | some x => exact ⟨some ⟨.ofNatLT x.1 (h x.1 x.2 rfl), x.2⟩, rfl⟩

/-- Inputs in their domains are the numbers of a frame. -/
theorem EncInputs.exists_frame {e : EIR} {ssrc pt seq ts pad version : Nat} {csrcs : List Nat}
    {ext : Option (Nat × Bytes)} {payload : Bytes}
    (h : EncInputs e ssrc pt seq ts pad version csrcs ext payload) :
    ∃ f : Frame, e.marker.value = f.marker ∧ f.ssrc.toNat = ssrc ∧ f.pt.toNat = pt
      ∧ f.seq.toNat = seq ∧ f.ts.toNat = ts ∧ f.pad.toNat = pad ∧ f.version.toNat = version
      ∧ f.csrcs.map BitVec.toNat = csrcs ∧ f.ext.map ExtInput.nat = ext ∧ f.payload = payload := by
  obtain ⟨ws, hws⟩ : ∃ ws : List Word, ws.map BitVec.toNat = csrcs := by
    refine exists_map_toNat_eq fun c hc => ?_
    obtain ⟨k, hk, rfl⟩ := List.getElem_of_mem hc
    exact (h.csrcs k hk).lt
  obtain ⟨x, hx⟩ : ∃ x : Option ExtInput, x.map ExtInput.nat = ext := by
    refine exists_map_nat_eq fun p b hpb => ?_
    obtain ⟨-, hprofile, -⟩ := h.present p b hpb
    exact hprofile.lt
  exact ⟨{ version := .ofNatLT version (Nat.lt_succ_of_le h.version.2), marker := e.marker.value
           pt := .ofNatLT pt h.pt.lt, seq := .ofNatLT seq h.seq.lt, ts := .ofNatLT ts h.ts.lt
           ssrc := .ofNatLT ssrc h.ssrc.lt, csrcs := ws, ext := x, payload := payload
           pad := .ofNatLT pad (Nat.lt_succ_of_le h.pad.2) },
    rfl, rfl, rfl, rfl, rfl, rfl, rfl, hws, hx, rfl⟩

end Sys2Proof.Machine
end

section
/-! ENC's output as arithmetic: each section of the frame's byte sequence, and its length
(40_encoder.md R102 to R109). -/

namespace Sys2Proof.Machine

/-- Byte 0: the fields of R103 do not overlap. -/
theorem byte0_eq_sum (version : BitVec 2) (p x : Bool) (cc : Fin 16) :
    (version.setWidth 8 <<< 6) ||| ((BitVec.ofBool p).setWidth 8 <<< 5)
        ||| ((BitVec.ofBool x).setWidth 8 <<< 4) ||| BitVec.ofNat 8 cc.val
      = BitVec.ofNat 8 (64 * version.toNat + 32 * p.toNat + 16 * x.toNat + cc.val) := by
  revert version p x cc
  decide

/-- Byte 1: the marker and the payload type do not overlap. -/
theorem byte1_eq_sum (marker : Bool) (pt : BitVec 7) :
    ((BitVec.ofBool marker).setWidth 8 <<< 7) ||| pt.setWidth 8
      = BitVec.ofNat 8 (128 * marker.toNat + pt.toNat) := by
  revert marker pt
  decide

/-- `BE` lists the bytes of R13's arithmetic. -/
theorem be_eq_map_beByte (v n : Nat) : be v n = (List.range n).map (beByte v n) := by
  apply List.ext_getElem?
  intro i
  by_cases h : i < n
  · rw [be_getElem? v h]
    simp [h]
  · simp [be, h]

theorem be_two (v : Nat) : be v 2 = [beByte v 2 0, beByte v 2 1] :=
  be_eq_map_beByte v 2

theorem be_four (v : Nat) :
    be v 4 = [beByte v 4 0, beByte v 4 1, beByte v 4 2, beByte v 4 3] :=
  be_eq_map_beByte v 4

theorem csrcBytes_eq (l : List Word) :
    csrcBytes l = ((l.map BitVec.toNat).map
      fun c => [beByte c 4 0, beByte c 4 1, beByte c 4 2, beByte c 4 3]).flatten := by
  simp only [csrcBytes, be_four, List.flatMap_def, List.map_map, Function.comp_def]

theorem padBytes_eq (n : BitVec 8) :
    padBytes n = if n.toNat = 0 then [] else
      List.replicate (n.toNat - 1) 0 ++ [BitVec.ofNat 8 n.toNat] := by
  have hzero : n = 0 ↔ n.toNat = 0 := BitVec.toNat_inj.symm
  simp only [padBytes, zeros, hzero, BitVec.ofNat_toNat, BitVec.setWidth_eq]

theorem Frame.byte0_eq (f : Frame) (h : f.csrcs.length ≤ 15) :
    f.byte0 = BitVec.ofNat 8 (64 * f.version.toNat + 32 * (if f.pad.toNat = 0 then 0 else 1)
      + 16 * (if (f.ext.map ExtInput.nat).isSome then 1 else 0) + f.csrcs.length) := by
  have hpad : (f.pad != 0).toNat = if f.pad.toNat = 0 then 0 else 1 := by
    by_cases hp : f.pad = 0
    · simp [hp]
    · have hne : f.pad.toNat ≠ 0 := fun h0 => hp (BitVec.eq_of_toNat_eq h0)
      simpa [hne] using hp
  have hext : f.ext.isSome.toNat = if (f.ext.map ExtInput.nat).isSome then 1 else 0 := by
    cases f.ext <;> rfl
  rw [← hpad, ← hext]
  exact byte0_eq_sum f.version (f.pad != 0) f.ext.isSome ⟨f.csrcs.length, Nat.lt_succ_of_le h⟩

theorem Frame.byte1_eq (f : Frame) :
    f.byte1 = BitVec.ofNat 8 (128 * (if f.marker then 1 else 0) + f.pt.toNat) := by
  have hmarker : f.marker.toNat = if f.marker then 1 else 0 := by cases f.marker <;> rfl
  rw [← hmarker]
  exact byte1_eq_sum f.marker f.pt

/-- The frame's bytes are the arithmetic of its numbers, section by section (R103 to R108). -/
theorem Frame.bytes_eq_encBytes (f : Frame) (hcount : f.csrcs.length ≤ 15) :
    f.bytes = encBytes f.ssrc.toNat f.pt.toNat f.seq.toNat f.ts.toNat f.pad.toNat f.version.toNat
      f.marker (f.csrcs.map BitVec.toNat) (f.ext.map ExtInput.nat) f.payload := by
  unfold encBytes
  rw [Frame.bytes, Frame.header, f.byte0_eq hcount, f.byte1_eq, be_two, be_four, be_four,
    csrcBytes_eq, padBytes_eq, List.length_map]
  cases f.ext with
  | none => rfl
  | some x => simp only [extBytes, be_two]; rfl

theorem Frame.total_eq_encTotal (f : Frame) :
    f.total = encTotal f.pad.toNat (f.csrcs.map BitVec.toNat) (f.ext.map ExtInput.nat)
      f.payload := by
  unfold encTotal
  rw [Frame.total, List.length_map]
  cases f.ext <;> rfl

theorem execEnc_of_ok {s : State} {f : Frame} (h : validate s.cfg s.eir = .ok f) :
    execEnc s = .next { s with status := 0x00100001, obuf := f.bytes, eir := EIR.reset } := by
  rw [execEnc, h]
  rfl

/-- Settles O10: the inputs are a frame's, which validation gives, and its bytes are the arithmetic of
its numbers. -/
theorem encWritesTheExactFrame : Obligations.EncWritesTheExactFrame := by
  intro s ssrc pt seq ts pad version csrcs ext payload h hcap
  obtain ⟨f, hmarker, rfl, rfl, rfl, rfl, rfl, rfl, rfl, rfl, rfl⟩ := h.exists_frame
  rw [← f.total_eq_encTotal] at hcap
  rw [hmarker, ← f.bytes_eq_encBytes (Frame.csrcs_length_le h)]
  exact execEnc_of_ok (validate_ok_iff_heldIn.mpr ⟨h, hmarker, hcap⟩)

/-- Settles O12: success means a validated frame, whose numbers EIR held; an error report has
OK = 0. -/
theorem encOutputLengthIsExact : Obligations.EncOutputLengthIsExact := by
  intro s t h hok
  rcases execEnc_cases s with ⟨f, hf, hs⟩ | ⟨e, -, -, -, -, hs⟩ <;>
    obtain rfl := Host.Outcome.next.inj (hs.symm.trans h)
  · obtain ⟨hin, hmarker, hcap⟩ := validate_ok_iff_heldIn.mp hf
    rw [← f.bytes_length] at hcap
    refine ⟨_, _, _, _, _, _, _, _, _, hin, ?_, ?_, hcap⟩
    · rw [hmarker]
      exact f.bytes_eq_encBytes (Frame.csrcs_length_le hin)
    · exact f.bytes_length.trans f.total_eq_encTotal
  · exact absurd ((stOk_statusError 1 e).symm.trans hok) nofun

end Sys2Proof.Machine
end

section
/-! The checks of ENC: validation raises the first of them that fails (40_encoder.md R101,
60_exceptions.md R197). -/

namespace Sys2Proof.Machine

/-- The error a part of validation raises, if it raises one. -/
def raised {α : Type} : Except CmdError α → Option CmdError
  | .ok _ => none
  | .error e => some e

/-- The first failure of two lists is that of the first list, else that of the second. -/
theorem firstFailure_append (l l' : List (Bool × CmdError)) :
    firstFailure (l ++ l') = (firstFailure l).or (firstFailure l') := by
  induction l with
  | nil => rfl
  | cons c l ih =>
    obtain ⟨holds, e⟩ := c
    cases holds
    · rfl
    · exact ih

/-- Checks in sequence: those of the second part are consulted only with a value of the first. -/
theorem raised_bind {α β : Type} {x : Except CmdError α} {f : α → Except CmdError β}
    {l l' : List (Bool × CmdError)} (hx : raised x = firstFailure l)
    (hf : ∀ a, x = .ok a → raised (f a) = firstFailure l') :
    raised (x >>= f) = firstFailure (l ++ l') := by
  rw [firstFailure_append, ← hx]
  cases x with
  | ok a => exact hf a rfl
  | error e => rfl

/-- A value built from what was read raises nothing more. -/
theorem raised_map {α β : Type} (x : Except CmdError α) (f : α → β) :
    raised (x >>= fun a => pure (f a)) = raised x := by
  cases x <;> rfl

/-- One check in front: what follows runs only when it holds. -/
theorem raised_guard {α : Type} {p : Prop} [Decidable p] {b : Bool} {e : CmdError}
    {x : Except CmdError α} {l : List (Bool × CmdError)} (hp : b = true ↔ p)
    (hx : p → raised x = firstFailure l) :
    raised (if p then x else .error e) = firstFailure ((b, e) :: l) := by
  by_cases h : p
  · rw [if_pos h, hp.mpr h]
    exact hx h
  · rw [if_neg h, Bool.eq_false_iff.mpr (mt hp.mp h)]
    rfl

theorem raised_need {α : Type} (r : Option α) (f : InputField) (k : BitVec 4) :
    raised (need r f k) = firstFailure [(r.isSome, ⟨.missing, f, k⟩)] := by
  cases r <;> rfl

theorem raised_range {v : S64} {w : Nat} {f : InputField} {k : BitVec 4} {b : Bool}
    (h : b = true ↔ 0 ≤ v.toInt ∧ v.toInt < 2 ^ w) :
    raised (range v w f k) = firstFailure [(b, ⟨.range, f, k⟩)] :=
  raised_guard h fun _ => rfl

theorem raised_needRange (r : Option S64) (w : Nat) (f : InputField) (k : Nat) :
    raised (needRange r w f (BitVec.ofNat 4 k)) = firstFailure (scalarChecks r w f k) := by
  refine raised_bind (raised_need r f _) fun v hv => raised_range ?_
  rw [need_ok.mp hv]
  exact decide_eq_true_iff

theorem raised_readCsrcs (regs : Vector (Option S64) 15) (k n : Nat) :
    raised (readCsrcs regs k n) = firstFailure
      ((List.range' k n).flatMap fun j => scalarChecks (regs[j]?).join 32 .csrcs j) := by
  induction n generalizing k with
  | zero => rfl
  | succ n ih =>
    rw [List.range'_succ, List.flatMap_cons]
    refine raised_bind (raised_needRange _ 32 .csrcs k) fun v _ => ?_
    rw [raised_map]
    exact ih (k + 1)

theorem raised_readCsrcList (e : EIR) :
    raised (readCsrcList e) = firstFailure
      ((decide (0 ≤ e.csrcN.value.toInt ∧ e.csrcN.value.toInt ≤ 15), ⟨.csrcCount, .csrcs, 0⟩)
        :: (List.range e.csrcN.value.toInt.toNat).flatMap fun k =>
          scalarChecks (e.csrc[k]?).join 32 .csrcs k) := by
  rw [List.range_eq_range']
  exact raised_guard decide_eq_true_iff fun _ => raised_readCsrcs e.csrc 0 _

theorem raised_readExt (e : EIR) :
    raised (readExt e) = firstFailure (if e.xpresent.value then
      scalarChecks e.xprofile 16 .xprofile 0
        ++ [(e.xblock.isSome, ⟨.missing, .xblock, 0⟩),
            (decide ((((e.xblock.getD []).length) + 3) / 4 ≤ 65535), ⟨.extLength, .xblock, 0⟩)]
      else []) := by
  unfold readExt
  cases e.xpresent.value with
  | false => rfl
  | true =>
    refine raised_bind (raised_needRange e.xprofile 16 .xprofile 0) fun p _ => ?_
    refine raised_bind (raised_need e.xblock .xblock 0) fun b hb => ?_
    rw [need_ok.mp hb, ← ite_not]
    exact raised_guard (decide_eq_true_iff.trans not_lt.symm) fun _ => rfl

/-- The bytes of an extension that was read, from its registers. -/
theorem extLength_of_readExt {e : EIR} {x : Option ExtInput} (h : readExt e = .ok x) :
    extLength x
      = if e.xpresent.value then 4 + 4 * (((e.xblock.getD []).length + 3) / 4) else 0 := by
  rcases readExt_ok.mp h with ⟨hx, rfl⟩ | ⟨hx, y, rfl, hb, -⟩
  · rw [hx]; rfl
  · rw [hx, hb]; rfl

/-- Validation raises the first check of R101 that does not hold. -/
theorem raised_validate (c : Config) (e : EIR) :
    raised (validate c e) = firstFailure (encChecks c e) := by
  simp only [encChecks, List.append_assoc]
  refine raised_bind (raised_needRange e.ssrc 32 .ssrc 0) fun ssrc _ => ?_
  refine raised_bind (raised_needRange e.pt 7 .pt 0) fun pt _ => ?_
  refine raised_bind (raised_need e.payload .payload 0) fun payload hpay => ?_
  refine raised_bind (raised_needRange e.seq 16 .seq 0) fun seq _ => ?_
  refine raised_bind (raised_needRange e.ts 32 .ts 0) fun ts _ => ?_
  rw [← List.append_assoc]
  refine raised_bind (raised_readCsrcList e) fun csrcs hcsrc => ?_
  refine raised_bind (raised_range ?_) fun pad hpad => ?_
  · rw [decide_eq_true_iff]
    omega
  refine raised_bind (raised_readExt e) fun ext hext => ?_
  rw [← List.singleton_append]
  refine raised_bind (raised_range ?_) fun version _ => ?_
  · rw [decide_eq_true_iff]
    omega
  obtain ⟨hcount, -⟩ := readCsrcList_ok.mp hcsrc
  rw [← ite_not]
  refine raised_guard ?_ fun _ => rfl
  rw [decide_eq_true_iff, not_lt, Frame.total, extLength_of_readExt hext, need_ok.mp hpay, hcount,
    range_ok.mp hpad]
  rfl

/-- Settles O11: the completion follows validation, which raises the first failing check. -/
theorem encRaisesTheFirstFailingCheck : Obligations.EncRaisesTheFirstFailingCheck := by
  intro s
  rw [← raised_validate]
  rcases execEnc_cases s with ⟨f, hf, hs⟩ | ⟨err, herr, -, -, -, hs⟩
  · rw [hf]
    exact ⟨nofun, fun _ => ⟨_, hs, rfl⟩⟩
  · rw [herr]
    refine ⟨?_, nofun⟩
    rintro _ ⟨⟩
    exact hs.trans (by rw [statusError_eq]; rfl)

end Sys2Proof.Machine
end

section
/-! DEC completes as the parse says, and the parse raises the first check that fails
(41_decoder.md R131, R134 to R136, 60_exceptions.md R198). -/

namespace Sys2Proof.Machine

theorem execDec_of_ok {s : State} {d : DFR} (h : decodeFrame s.ibuf = .ok d) :
    execDec s = .next { s with status := 0x00200001, dfr := d } := by
  rw [execDec, h]
  rfl

theorem execDec_of_error {s : State} {e : CmdError} (h : decodeFrame s.ibuf = .error e) :
    execDec s = .next { s with status := errorReport 2 e, dfr := DFR.reset } := by
  obtain ⟨hcls, -, -⟩ := decodeFrame_error h
  rw [execDec, h]
  refine congrArg _ ((completeError_malformed 2 e s hcls).trans ?_)
  rw [statusError_eq]
  rfl

section Checks
variable {s : Bytes}

/-- The word count W of a present extension, where the parser reads it. -/
theorem rdBE_words (hx : frameX s = 1) (h : 16 + 4 * frameCc s ≤ s.length) :
    rdBE s (12 + 4 * frameCc s + 2) 2 = frameW s := by
  have hoff : 12 + 4 * frameCc s + 2 = 14 + 4 * frameCc s := by omega
  rw [rdBE_two s (by omega), frameW, if_pos hx, hoff]

/-- The extension's two checks: its header, then its block (R135). -/
theorem raised_parseExt (hcsrc : 12 + 4 * frameCc s ≤ s.length) :
    raised (parseExt s (12 + 4 * frameCc s) (decide (frameX s = 1)))
      = firstFailure [(decide (frameX s = 1 → 16 + 4 * frameCc s ≤ s.length),
            ⟨.shortExtension, .none, 0⟩),
          (decide (frameH s ≤ s.length), ⟨.shortExtension, .none, 0⟩)] := by
  by_cases hx : frameX s = 1
  · rw [decide_eq_true hx, parseExt, if_pos rfl, ← ite_not]
    refine raised_guard (by rw [decide_eq_true_iff]; omega) fun hhead => ?_
    have hw := rdBE_words hx (by omega)
    have hH : frameH s = 12 + 4 * frameCc s + (4 + 4 * frameW s) := by rw [frameH, if_pos hx]
    rw [hw, ← ite_not]
    exact raised_guard (by rw [decide_eq_true_iff]; omega) fun _ => rfl
  · have hH : frameH s ≤ s.length := by rwa [frameH, if_neg hx]
    rw [decide_eq_true hH, decide_eq_true fun h => absurd h hx, decide_eq_false hx]
    rfl

/-- The padding count's check (R136). -/
theorem raised_parsePayload :
    raised (parsePayload s (frameH s) (decide (frameP s = 1)))
      = firstFailure [(decide (frameP s = 1 → 1 ≤ frameN s ∧ frameN s ≤ s.length - frameH s),
          ⟨.badPadding, .none, 0⟩)] := by
  by_cases hp : frameP s = 1
  · rw [decide_eq_true hp, parsePayload, if_pos rfl]
    exact raised_guard (decide_eq_true_iff.trans (imp_iff_right hp)) fun _ => rfl
  · rw [decide_eq_false hp, decide_eq_true fun h => absurd h hp]
    rfl

/-- The parse raises the first check of R198 that does not hold. -/
theorem raised_decodeFrame (s : Bytes) :
    raised (decodeFrame s) = firstFailure (decChecks s) := by
  simp only [decodeFrame, toNat_cc_eq_frameCc, x_eq_frameX, p_eq_frameP]
  rw [← ite_not]
  refine raised_guard (decide_eq_true_iff.trans not_lt.symm) fun hlen => ?_
  rw [← ite_not]
  refine raised_guard (by rw [decide_eq_true_iff]; omega) fun hcsrc => ?_
  have hcsrc : 12 + 4 * frameCc s ≤ s.length := by omega
  refine raised_bind (raised_parseExt hcsrc) fun ext hext => ?_
  obtain ⟨-, hcur, -⟩ := parseExt_header hcsrc hext
  rw [raised_map, hcur]
  exact raised_parsePayload

end Checks

/-- Settles O17: the completion follows the parse, which raises the first failing check. -/
theorem decReportsTheFirstMalformedSection : Obligations.DecReportsTheFirstMalformedSection := by
  intro s e he
  rw [← raised_decodeFrame] at he
  cases hd : decodeFrame s.ibuf with
  | ok d =>
    rw [hd] at he
    exact nomatch he
  | error err =>
    rw [hd] at he
    obtain rfl := Option.some.inj he
    exact execDec_of_error hd

end Sys2Proof.Machine
end

section
/-! The fields of a decoded frame, as the arithmetic of its bytes (41_decoder.md R132 to R136), and
what a DEC writes. -/

namespace Sys2Proof.Machine

theorem slice_eq_take_drop (s : Bytes) (a b : Nat) : slice s a b = (s.drop a).take (b - a) :=
  List.drop_take

section Fields
variable {s : Bytes}

theorem rdBE_four {off : Nat} (h : off + 4 ≤ s.length) : rdBE s off 4 = be32At s off := by
  rw [rdBE_eq_sum h]
  simp [be32At, be16At, List.range_succ, Nat.add_assoc]
  omega

theorem toNat_ofNat_rdBE_two {off : Nat} (h : off + 2 ≤ s.length) :
    (BitVec.ofNat 16 (rdBE s off 2)).toNat = be16At s off :=
  (Nat.mod_eq_of_lt (rdBE_lt s off 2)).trans (rdBE_two s h)

theorem toNat_ofNat_rdBE_four {off : Nat} (h : off + 4 ≤ s.length) :
    (BitVec.ofNat 32 (rdBE s off 4)).toNat = be32At s off :=
  (Nat.mod_eq_of_lt (rdBE_lt s off 4)).trans (rdBE_four h)

theorem toNat_versionBits (b : Byte) : (b.extractLsb' 6 2).toNat = b.toNat / 64 := by
  revert b; decide

theorem markerBit_eq (b : Byte) : b.getLsbD 7 = decide (b.toNat / 128 = 1) := by
  revert b; decide

/-- The CSRC table as big-endian numbers (R134). -/
theorem csrcTable_toNat (hcsrc : 12 + 4 * frameCc s ≤ s.length) (k : Fin 15) :
    ((csrcTable s 12 (frameCc s))[k]).toNat
      = if k.val < frameCc s then be32At s (12 + 4 * k.val) else 0 := by
  rw [csrcTable_get]
  split
  · exact toNat_ofNat_rdBE_four (by omega)
  · rfl

/-- The parsed extension as the numbers and bytes of the sequence (R135). -/
theorem parseExt_fields {ext : ParsedExt}
    (h : parseExt s (12 + 4 * frameCc s) (decide (frameX s = 1)) = .ok ext) :
    ext.profile.toNat = (if frameX s = 1 then be16At s (12 + 4 * frameCc s) else 0)
      ∧ ext.words.toNat = frameW s
      ∧ ext.block = (s.drop (16 + 4 * frameCc s)).take (4 * frameW s) := by
  rcases parseExt_ok.mp h with ⟨hx, rfl⟩ | ⟨hx, hhead, -, rfl⟩
  · have hx : frameX s ≠ 1 := of_decide_eq_false hx
    simp [frameW, hx]
  · have hx : frameX s = 1 := of_decide_eq_true hx
    have hw := rdBE_words hx (by omega)
    have hblock : 12 + 4 * frameCc s + 4 = 16 + 4 * frameCc s := by omega
    rw [if_pos hx, hw, hblock, slice_eq_take_drop, Nat.add_sub_cancel_left]
    refine ⟨toNat_ofNat_rdBE_two (by omega), ?_, rfl⟩
    rw [← hw]
    exact Nat.mod_eq_of_lt (rdBE_lt s _ 2)

/-- The payload is what lies between the header and the padding (R136). -/
theorem parsePayload_eq {cur : Nat} {b : Bytes}
    (h : parsePayload s cur (decide (frameP s = 1)) = .ok b) :
    b = (s.drop cur).take (s.length - cur - if frameP s = 1 then frameN s else 0) := by
  rcases parsePayload_ok.mp h with ⟨hp, rfl⟩ | ⟨hp, -, -, rfl⟩
  · rw [if_neg (of_decide_eq_false hp), slice_eq_take_drop, Nat.sub_zero]
  · rw [if_pos (of_decide_eq_true hp), slice_eq_take_drop, Nat.sub_right_comm]
    rfl

/-- A decoded frame is the frame of its byte sequence in every field. -/
theorem decodedFrom_of_decodeFrame {d : DFR} (h : decodeFrame s = .ok d) : DecodedFrom s d := by
  obtain ⟨hlen, hcsrc, ext, pay, hext, hpay, rfl⟩ := decodeFrame_ok.mp h
  simp only [toNat_cc_eq_frameCc, x_eq_frameX, p_eq_frameP] at hcsrc hext hpay
  have hcsrc : 12 + 4 * frameCc s ≤ s.length := by omega
  obtain ⟨hprofile, hwords, hblock⟩ := parseExt_fields hext
  obtain ⟨-, hcur, -⟩ := parseExt_header hcsrc hext
  rw [hcur] at hpay
  exact
    { valid := rfl, version := toNat_versionBits _, p := p_eq_frameP s, x := x_eq_frameX s
      cc := toNat_cc_eq_frameCc s, m := markerBit_eq _, pt := BitVec.extractLsb'_toNat ..
      seq := toNat_ofNat_rdBE_two (by omega), ts := toNat_ofNat_rdBE_four (by omega)
      ssrc := toNat_ofNat_rdBE_four (by omega)
      csrc := by rw [toNat_cc_eq_frameCc]; exact csrcTable_toNat hcsrc
      xprofile := hprofile, xlen := hwords, xblock := hblock, payload := parsePayload_eq hpay }

end Fields

/-- Settles O16: with every check met the parse gives a frame, and DEC commits it. -/
theorem decUnpacksEveryField : Obligations.DecUnpacksEveryField := by
  intro s hs
  rw [← raised_decodeFrame] at hs
  cases hd : decodeFrame s.ibuf with
  | ok d => exact ⟨d, decodedFrom_of_decodeFrame hd, execDec_of_ok hd⟩
  | error e =>
    rw [hd] at hs
    exact nomatch hs

/-- What DEC writes to STATUS and DFR is fixed by IBUF, and it writes nothing else. -/
theorem execDec_writes (b : Bytes) : ∃ (st : Word) (d : DFR), ∀ s : State, s.ibuf = b →
    execDec s = .next { s with status := st, dfr := d } := by
  cases h : decodeFrame b with
  | ok d => exact ⟨_, d, fun s hs => execDec_of_ok (hs ▸ h)⟩
  | error e => exact ⟨_, _, fun s hs => execDec_of_error (hs ▸ h)⟩

/-- Settles O18: what DEC writes is fixed by IBUF. -/
theorem decDependsOnInputAlone : Obligations.DecDependsOnInputAlone := by
  intro s₁ s₂ h
  obtain ⟨st, d, hw⟩ := execDec_writes s₂.ibuf
  exact ⟨_, _, hw s₁ h, hw s₂ rfl, rfl, rfl⟩

end Sys2Proof.Machine
end

section
/-! Parsing what ENC writes: the cursor moves from section to section of the frame, and each section
gives back the fields it was written from (41_decoder.md R141). -/

namespace Sys2Proof.Machine

/-- The cursor moves past a section of the sequence. -/
theorem drop_of_drop_append {s front rest : Bytes} {i j : Nat} (h : s.drop i = front ++ rest)
    (hj : j = i + front.length) : s.drop j = rest := by
  rw [hj, ← List.drop_drop, h, List.drop_left]

/-- `RdBE` at the cursor gives the number written there. -/
theorem rdBE_of_drop {s rest : Bytes} {off v n : Nat} (h : s.drop off = be v n ++ rest)
    (hv : v < 256 ^ n) : rdBE s off n = v := by
  have hread : memRead s off n = be v n := by
    rw [memRead, slice_eq_take_drop, h, Nat.add_sub_cancel_left]
    exact List.take_left' (be_length v n)
  rw [rdBE, hread, foldl_be _ _ _ hv, Nat.zero_mul, Nat.zero_add]

theorem ofNat_rdBE_two_of_drop {s rest : Bytes} {off : Nat} {v : BitVec 16}
    (h : s.drop off = be v.toNat 2 ++ rest) : BitVec.ofNat 16 (rdBE s off 2) = v := by
  rw [rdBE_of_drop h v.isLt, BitVec.ofNat_toNat, BitVec.setWidth_eq]

theorem ofNat_rdBE_four_of_drop {s rest : Bytes} {off : Nat} {v : Word}
    (h : s.drop off = be v.toNat 4 ++ rest) : BitVec.ofNat 32 (rdBE s off 4) = v := by
  rw [rdBE_of_drop h v.isLt, BitVec.ofNat_toNat, BitVec.setWidth_eq]

theorem csrcBytes_cons (c : Word) (l : List Word) :
    csrcBytes (c :: l) = be c.toNat 4 ++ csrcBytes l := rfl

/-- Entry k of a CSRC list at the cursor. -/
theorem ofNat_rdBE_of_drop_csrcBytes {s rest : Bytes} {l : List Word} {off k : Nat}
    (h : s.drop off = csrcBytes l ++ rest) (hk : k < l.length) :
    BitVec.ofNat 32 (rdBE s (off + 4 * k) 4) = l[k] := by
  induction l generalizing off k with
  | nil => exact absurd hk (Nat.not_lt_zero k)
  | cons c l ih =>
    rw [csrcBytes_cons, List.append_assoc] at h
    cases k with
    | zero => exact ofNat_rdBE_four_of_drop h
    | succ k =>
      have htail : s.drop (off + 4) = csrcBytes l ++ rest :=
        drop_of_drop_append h (by rw [be_length])
      have hoff : off + 4 * (k + 1) = off + 4 + 4 * k := by omega
      rw [hoff]
      exact ih htail (Nat.lt_of_succ_lt_succ hk)

/-- The CSRC table of a list: its entries in order, 0 above them. -/
theorem csrcTable_of_drop {s rest : Bytes} {l : List Word} {off : Nat}
    (h : s.drop off = csrcBytes l ++ rest) :
    csrcTable s off l.length = Vector.ofFn fun k => l.getD k.val 0 := by
  apply Vector.ext
  intro k hk
  refine (csrcTable_get s off l.length ⟨k, hk⟩).trans ?_
  rw [Vector.getElem_ofFn]
  by_cases hl : k < l.length
  · rw [if_pos hl, ofNat_rdBE_of_drop_csrcBytes h hl, List.getD_eq_getElem _ _ hl]
  · rw [if_neg hl, List.getD_eq_default _ _ (not_lt.mp hl)]

/-- What the parser makes of an extension written at `cur`: the block comes back with its filler. -/
def ParsedExt.ofInput (cur : Nat) : Option ExtInput → ParsedExt
  | none => ⟨0, 0, [], cur⟩
  | some x =>
    let w := ceildiv4 x.block.length
    ⟨x.profile, BitVec.ofNat 16 w, x.block ++ zeros (4 * w - x.block.length), cur + 4 + 4 * w⟩

theorem ParsedExt.ofInput_cur (cur : Nat) (x : Option ExtInput) :
    (ParsedExt.ofInput cur x).cur = cur + extLength x := by
  cases x
  · rfl
  · exact Nat.add_assoc _ _ _

theorem parseExt_of_drop {s rest : Bytes} {x : Option ExtInput} {cur : Nat}
    (h : s.drop cur = extBytes x ++ rest) (hx : ∀ y ∈ x, ceildiv4 y.block.length ≤ 65535) :
    parseExt s cur x.isSome = .ok (ParsedExt.ofInput cur x) := by
  cases x with
  | none => rfl
  | some x =>
    have hlen := congrArg List.length h
    rw [List.length_drop, List.length_append, extBytes_length, extLength] at hlen
    simp only [extBytes, List.append_assoc] at h
    have hwords := drop_of_drop_append (j := cur + 2) h (by rw [be_length])
    have hblock := drop_of_drop_append (j := cur + 4) hwords (by rw [be_length])
    have hw : rdBE s (cur + 2) 2 = ceildiv4 x.block.length :=
      rdBE_of_drop hwords (Nat.lt_succ_of_le (hx x rfl))
    have hslice : slice s (cur + 4) (cur + 4 + 4 * ceildiv4 x.block.length)
        = x.block ++ zeros (4 * ceildiv4 x.block.length - x.block.length) := by
      have := (ceildiv4_bounds x.block.length).1
      rw [slice_eq_take_drop, hblock, Nat.add_sub_cancel_left, ← List.append_assoc]
      exact List.take_left' (by rw [List.length_append, zeros_length]; omega)
    refine parseExt_ok.mpr (.inr ⟨rfl, by omega, by omega, ?_⟩)
    rw [hw, hslice, ofNat_rdBE_two_of_drop h]
    rfl

/-- The last byte of a trailer at the cursor is the padding count. -/
theorem byteAt_last_of_drop {s front : Bytes} {b : Byte} {cur : Nat}
    (h : s.drop cur = front ++ [b]) : byteAt s (s.length - 1) = b := by
  have hlen := congrArg List.length h
  rw [List.length_drop, List.length_append, List.length_singleton] at hlen
  have hlast : s.length - 1 = cur + front.length := by omega
  have hdrop : s.drop (s.length - 1) = [b] := drop_of_drop_append h hlast
  rw [byteAt, List.getD_eq_getElem?_getD, ← List.head?_drop, hdrop]
  rfl

/-- The padding count is stripped with its filler. -/
theorem parsePayload_of_drop {s payload : Bytes} {pad : BitVec 8} {cur : Nat}
    (h : s.drop cur = payload ++ padBytes pad) :
    parsePayload s cur (pad != 0) = .ok payload := by
  have hlen := congrArg List.length h
  rw [List.length_drop, List.length_append, padBytes_length] at hlen
  have hslice : payload = slice s cur (s.length - pad.toNat) := by
    rw [slice_eq_take_drop, h]
    exact (List.take_left' (by omega)).symm
  refine parsePayload_ok.mpr ?_
  by_cases hp : pad = 0
  · subst hp
    exact .inl ⟨rfl, hslice⟩
  · have hpos : pad.toNat ≠ 0 := fun h0 => hp (BitVec.eq_of_toNat_eq h0)
    rw [padBytes, if_neg hp, ← List.append_assoc] at h
    rw [byteAt_last_of_drop h]
    exact .inr ⟨bne_iff_ne.mpr hp, by omega, by omega, hslice⟩

/-- The fields of byte 0 read back. -/
theorem Frame.byte0_fields (f : Frame) (h : f.csrcs.length ≤ 15) :
    f.byte0.extractLsb' 6 2 = f.version ∧ f.byte0.getLsbD 5 = (f.pad != 0)
      ∧ f.byte0.getLsbD 4 = f.ext.isSome
      ∧ f.byte0.extractLsb' 0 4 = BitVec.ofNat 4 f.csrcs.length := by
  have key : ∀ (version : BitVec 2) (p x : Bool) (cc : Fin 16),
      let b : Byte := (version.setWidth 8 <<< 6) ||| ((BitVec.ofBool p).setWidth 8 <<< 5)
        ||| ((BitVec.ofBool x).setWidth 8 <<< 4) ||| BitVec.ofNat 8 cc.val
      b.extractLsb' 6 2 = version ∧ b.getLsbD 5 = p ∧ b.getLsbD 4 = x
        ∧ b.extractLsb' 0 4 = BitVec.ofNat 4 cc.val := by decide
  exact key f.version (f.pad != 0) f.ext.isSome ⟨f.csrcs.length, Nat.lt_succ_of_le h⟩

/-- The fields of byte 1 read back. -/
theorem Frame.byte1_fields (f : Frame) :
    f.byte1.getLsbD 7 = f.marker ∧ f.byte1.extractLsb' 0 7 = f.pt := by
  have key : ∀ (marker : Bool) (pt : BitVec 7),
      let b : Byte := ((BitVec.ofBool marker).setWidth 8 <<< 7) ||| pt.setWidth 8
      b.getLsbD 7 = marker ∧ b.extractLsb' 0 7 = pt := by decide
  exact key f.marker f.pt

/-- The DFR value of a frame: its fields, with the extension as it is parsed. The padding count is
lost but for P. -/
def Frame.decoded (f : Frame) : DFR :=
  let ext := ParsedExt.ofInput (12 + 4 * f.csrcs.length) f.ext
  { valid := true, version := f.version, p := f.pad != 0, x := f.ext.isSome
    cc := BitVec.ofNat 4 f.csrcs.length, m := f.marker, pt := f.pt, seq := f.seq, ts := f.ts
    ssrc := f.ssrc, csrc := Vector.ofFn fun k => f.csrcs.getD k.val 0, xprofile := ext.profile
    xlen := ext.words, xblock := ext.block, payload := f.payload }

/-- Decode undoes encode (R141). -/
theorem decodeFrame_bytes {f : Frame} (hcount : f.csrcs.length ≤ 15)
    (hext : ∀ x ∈ f.ext, ceildiv4 x.block.length ≤ 65535) :
    decodeFrame f.bytes = .ok f.decoded := by
  have hseq : f.bytes.drop 2 = be f.seq.toNat 2 ++ (be f.ts.toNat 4 ++ (be f.ssrc.toNat 4
      ++ (csrcBytes f.csrcs ++ (extBytes f.ext ++ (f.payload ++ padBytes f.pad))))) := by
    simp [Frame.bytes, Frame.header]
  have hts := drop_of_drop_append (j := 4) hseq (by rw [be_length])
  have hssrc := drop_of_drop_append (j := 8) hts (by rw [be_length])
  have hcsrc := drop_of_drop_append (j := 12) hssrc (by rw [be_length])
  have hx := drop_of_drop_append hcsrc (by rw [csrcBytes_length])
  have hpay := drop_of_drop_append hx (by rw [extBytes_length])
  rw [← ParsedExt.ofInput_cur] at hpay
  have hlen : f.bytes.length = 12 + 4 * f.csrcs.length + extLength f.ext + f.payload.length
      + f.pad.toNat := f.bytes_length
  have hcc : (BitVec.ofNat 4 f.csrcs.length).toNat = f.csrcs.length :=
    Nat.mod_eq_of_lt (Nat.lt_succ_of_le hcount)
  have hb0 : byteAt f.bytes 0 = f.byte0 := rfl
  have hb1 : byteAt f.bytes 1 = f.byte1 := rfl
  obtain ⟨hversion, hp, hxbit, hccbits⟩ := f.byte0_fields hcount
  obtain ⟨hm, hpt⟩ := f.byte1_fields
  rw [decodeFrame_ok, hb0, hb1, hversion, hp, hxbit, hccbits, hm, hpt, hcc,
    ofNat_rdBE_two_of_drop hseq, ofNat_rdBE_four_of_drop hts, ofNat_rdBE_four_of_drop hssrc,
    csrcTable_of_drop hcsrc]
  exact ⟨by omega, by omega, _, _, parseExt_of_drop hx hext, parsePayload_of_drop hpay, rfl⟩

end Sys2Proof.Machine
end

section
/-! The round trip: the fields of the decoded frame are the numbers ENC was given (41_decoder.md
R141). -/

namespace Sys2Proof.Machine

theorem ParsedExt.ofInput_words {x : Option ExtInput} (cur : Nat)
    (hx : ∀ y ∈ x, ceildiv4 y.block.length ≤ 65535) :
    (ParsedExt.ofInput cur x).words.toNat = extWords (x.map ExtInput.nat) := by
  cases x with
  | none => rfl
  | some y => exact Nat.mod_eq_of_lt (Nat.lt_succ_of_le (hx y rfl))

/-- A present extension: the block comes back with its filler, and an aligned one needs none
(R141). -/
theorem ParsedExt.ofInput_present {x : Option ExtInput} {p : Nat} {b : Bytes} (cur : Nat)
    (hx : x.map ExtInput.nat = some (p, b)) :
    (ParsedExt.ofInput cur x).profile.toNat = p
      ∧ (ParsedExt.ofInput cur x).block
        = b ++ List.replicate (4 * extWords (x.map ExtInput.nat) - b.length) 0
      ∧ (b.length % 4 = 0 → (ParsedExt.ofInput cur x).block = b) := by
  obtain ⟨y, rfl, hy⟩ := Option.map_eq_some_iff.mp hx
  obtain ⟨rfl, rfl⟩ := Prod.mk.inj hy
  refine ⟨rfl, rfl, fun haligned => ?_⟩
  have hfill : 4 * ceildiv4 y.block.length - y.block.length = 0 := by unfold ceildiv4; omega
  rw [ofInput, hfill]
  exact List.append_nil _

theorem ParsedExt.ofInput_absent {x : Option ExtInput} (cur : Nat)
    (hx : x.map ExtInput.nat = none) :
    (ParsedExt.ofInput cur x).profile = 0 ∧ (ParsedExt.ofInput cur x).block = [] := by
  rw [Option.map_eq_none_iff.mp hx]
  exact ⟨rfl, rfl⟩

theorem Frame.heldIn.words_le {f : Frame} {e : EIR} (h : f.heldIn e) :
    ∀ x ∈ f.ext, ceildiv4 x.block.length ≤ 65535 := by
  intro x hx
  obtain ⟨-, -, -, hwords⟩ := h.present x.profile.toNat x.block (by rw [Option.mem_def.mp hx]; rfl)
  exact hwords

/-- The CSRC entries of the decoded frame, as numbers. -/
theorem Frame.decoded_csrc (f : Frame) (k : Fin 15) :
    (f.decoded.csrc[k]).toNat = (f.csrcs.map BitVec.toNat).getD k.val 0 := by
  have hk : f.decoded.csrc[k] = f.csrcs.getD k.val 0 := Vector.getElem_ofFn k.isLt
  rw [hk]
  exact (List.getD_map _ 0 BitVec.toNat).symm

theorem Frame.decoded_p (f : Frame) : f.decoded.p = decide (f.pad.toNat ≠ 0) := by
  have hzero : f.pad ≠ 0 ↔ f.pad.toNat ≠ 0 := BitVec.toNat_inj.symm.not
  rw [Bool.eq_iff_iff, decide_eq_true_iff, ← hzero]
  exact bne_iff_ne

theorem Frame.decoded_cc {f : Frame} (h : f.csrcs.length ≤ 15) :
    f.decoded.cc.toNat = (f.csrcs.map BitVec.toNat).length := by
  rw [List.length_map]
  exact Nat.mod_eq_of_lt (Nat.lt_succ_of_le h)

/-- Settles O20: ENC writes the bytes of a frame, and they decode to its fields. -/
theorem decodeOfEncodeReturnsEveryField : Obligations.DecodeOfEncodeReturnsEveryField := by
  intro s ssrc pt seq ts pad version csrcs ext payload h hobuf hibuf
  obtain ⟨f, hmarker, rfl, rfl, rfl, rfl, rfl, rfl, rfl, rfl, rfl⟩ := h.exists_frame
  have hf : f.heldIn s.eir := h
  rw [← f.total_eq_encTotal] at hobuf hibuf
  have henc := execEnc_of_ok (validate_ok_iff_heldIn.mpr ⟨hf, hmarker, hobuf⟩)
  have hcount := Frame.csrcs_length_le hf
  exact ⟨_, _, _, henc, hostWrite_ibuf (f.bytes_length.trans_le hibuf),
    execDec_of_ok (decodeFrame_bytes hcount hf.words_le), rfl, rfl, rfl, f.decoded_p,
    (Option.isSome_map ..).symm, hmarker.symm, rfl, rfl, rfl, rfl, f.decoded_cc hcount,
    f.decoded_csrc, fun _ _ => ParsedExt.ofInput_present _, ParsedExt.ofInput_absent _,
    ParsedExt.ofInput_words _ hf.words_le, rfl⟩

end Sys2Proof.Machine
end

section
/-! The padding filler: every section before the payload is parsed from the bytes in front of the
trailer, and of the trailer the last byte alone is read (41_decoder.md R139). -/

namespace Sys2Proof.Machine

section SharedFront
variable {front : Bytes} (a b : Bytes)

theorem byteAt_append_congr {i : Nat} (h : i < front.length) :
    byteAt (front ++ a) i = byteAt (front ++ b) i :=
  (List.getD_append _ _ _ _ h).trans (List.getD_append _ _ _ _ h).symm

theorem slice_append_congr {i j : Nat} (h : j ≤ front.length) :
    slice (front ++ a) i j = slice (front ++ b) i j := by
  rw [slice, slice, List.take_append_of_le_length h, List.take_append_of_le_length h]

theorem rdBE_append_congr {off n : Nat} (h : off + n ≤ front.length) :
    rdBE (front ++ a) off n = rdBE (front ++ b) off n := by
  rw [rdBE, rdBE, memRead, memRead, slice_append_congr a b h]

theorem csrcTable_append_congr {cur cc : Nat} (h : cur + 4 * cc ≤ front.length) :
    csrcTable (front ++ a) cur cc = csrcTable (front ++ b) cur cc := by
  unfold csrcTable
  congr 1
  funext k
  refine if_ctx_congr Iff.rfl (fun hk => ?_) fun _ => rfl
  rw [rdBE_append_congr a b (by omega)]

/-- An extension that ends within the shared front. -/
theorem parseExt_append_congr {cur : Nat} {x : Bool} {ext : ParsedExt}
    (h : parseExt (front ++ a) cur x = .ok ext) (hcur : ext.cur ≤ front.length) :
    parseExt (front ++ b) cur x = .ok ext := by
  rcases parseExt_ok.mp h with ⟨rfl, rfl⟩ | ⟨rfl, -, -, rfl⟩
  · rfl
  · have hcur : cur + 4 + 4 * rdBE (front ++ a) (cur + 2) 2 ≤ front.length := hcur
    have hlen : (front ++ b).length = front.length + b.length := List.length_append
    have hwords := rdBE_append_congr a b (off := cur + 2) (n := 2) (front := front) (by omega)
    refine parseExt_ok.mpr (.inr ⟨rfl, by omega, by rw [← hwords]; omega, ?_⟩)
    rw [slice_append_congr a b hcur, hwords, rdBE_append_congr a b (by omega)]

end SharedFront

/-- The parse of an extension does not move the cursor back. -/
theorem parseExt_le_cur {s : Bytes} {cur : Nat} {x : Bool} {ext : ParsedExt}
    (h : parseExt s cur x = .ok ext) : cur ≤ ext.cur := by
  rcases parseExt_ok.mp h with ⟨-, rfl⟩ | ⟨-, -, -, rfl⟩
  · exact le_refl cur
  · exact (Nat.le_add_right cur 4).trans (Nat.le_add_right _ _)

section Trailer
variable {front fill : Bytes} {n : Byte} (hn : fill.length + 1 = n.toNat)
include hn

/-- The payload before a trailer is what is left in front of it, whatever the filler. -/
theorem parsePayload_trailer {cur : Nat} {b : Bytes} :
    parsePayload (front ++ fill ++ [n]) cur true = .ok b
      ↔ cur ≤ front.length ∧ b = front.drop cur := by
  have hlen : (front ++ fill ++ [n]).length = front.length + n.toNat := by
    simp only [List.length_append, List.length_singleton]
    omega
  have hslice : slice (front ++ fill ++ [n]) cur front.length = front.drop cur := by
    rw [slice, List.append_assoc, List.take_left]
  rw [parsePayload_ok, byteAt_last_of_drop (cur := 0) rfl, hlen, Nat.add_sub_cancel, hslice]
  constructor
  · rintro (⟨⟨⟩, -⟩ | ⟨-, -, hhi, rfl⟩)
    exact ⟨by omega, rfl⟩
  · rintro ⟨hcur, rfl⟩
    exact .inr ⟨rfl, by omega, by omega, rfl⟩

/-- A frame with a trailer decodes to the same fields with any other filler. -/
theorem decodeFrame_filler {fill' : Bytes} {d : DFR} (hfill : fill'.length = fill.length)
    (h : decodeFrame (front ++ fill ++ [n]) = .ok d) (hp : d.p = true) :
    decodeFrame (front ++ fill' ++ [n]) = .ok d := by
  obtain ⟨-, -, ext, pay, hext, hpay, rfl⟩ := decodeFrame_ok.mp h
  have hp : (byteAt (front ++ fill ++ [n]) 0).getLsbD 5 = true := hp
  rw [hp, parsePayload_trailer hn] at hpay
  obtain ⟨hcur, hpay⟩ := hpay
  have hcsrc := parseExt_le_cur hext
  have hpay' := (parsePayload_trailer (hfill ▸ hn)).mpr ⟨hcur, hpay⟩
  simp only [List.append_assoc] at hext hp hcsrc hpay' ⊢
  have hlen : (front ++ (fill' ++ [n])).length = front.length + (fill' ++ [n]).length :=
    List.length_append
  generalize fill ++ [n] = a, fill' ++ [n] = b at *
  rw [← hp] at hpay'
  rw [decodeFrame_ok, byteAt_append_congr b a (by omega), byteAt_append_congr b a (by omega),
    rdBE_append_congr b a (by omega), rdBE_append_congr b a (by omega),
    rdBE_append_congr b a (by omega), csrcTable_append_congr b a (by omega)]
  exact ⟨by omega, by omega, ext, pay, parseExt_append_congr a b hext hcur, hpay', rfl⟩

end Trailer

/-- Settles O19: success means a decoded frame, which decodes again with the other filler. -/
theorem decIgnoresPaddingFiller : Obligations.DecIgnoresPaddingFiller := by
  intro s t front fill fill' n hs hn hfill ht hok hp
  rcases execDec_cases s with ⟨d, hd, hexec⟩ | ⟨e, -, -, -, -, hexec⟩ <;>
    obtain rfl := Host.Outcome.next.inj (hexec.symm.trans ht)
  · rw [hs] at hd
    exact execDec_of_ok (decodeFrame_filler hn hfill hd hp)
  · exact absurd ((stOk_statusError 2 e).symm.trans hok) nofun

end Sys2Proof.Machine
end

section
/-! The accessors: what a GET of each field returns with a decoded frame and without one, and that a
GET reads DFR alone (42_accessor.md R160 to R171). -/

namespace Sys2Proof.Machine

/-- Settles O27: both states give the same case of R160, which DFR.VALID picks, and the same value
of DFR. -/
theorem getReadsFrameAndWritesResultOnly : Obligations.GetReadsFrameAndWritesResultOnly := by
  intro i s₁ s₂ hi hdfr
  obtain ⟨value, hexec⟩ := exec_of_isGet hi
  rw [hexec, hexec]
  cases h : s₁.dfr.valid with
  | true =>
    rw [completeGet_valid _ s₁ h, completeGet_valid _ s₂ (hdfr ▸ h), ← hdfr]
    exact ⟨_, _, rfl, rfl⟩
  | false =>
    rw [completeGet_noFrame _ s₁ h, completeGet_noFrame _ s₂ (hdfr ▸ h)]
    exact ⟨_, _, rfl, rfl⟩

/-- Settles O26: NO_FRAME is the ACCESSOR error whose word is 0x00300516. -/
theorem getWithoutFrameReportsNoFrame : Obligations.GetWithoutFrameReportsNoFrame := by
  intro s i hi h
  obtain ⟨value, hexec⟩ := exec_of_isGet hi
  have hstatus : statusError 3 ⟨.noFrame, .none, 0⟩ = 0x00300516 := by decide
  rw [hexec, completeGet_noFrame value s h, hstatus]

/-- A GET whose field has the value `r` in the decoded frame returns `r` with the STATUS of a
successful GET (R160, R193). -/
theorem exec_fieldInstr_of_fieldValue {f : FieldId} {s : State} {r : Res}
    (h : s.dfr.valid = true) (hr : fieldValue f s.dfr = r) :
    exec f.instr s = .next { s with status := 0x00300001, res := r } := by
  have hstatus : statusOk 3 = 0x00300001 := by decide
  rw [exec_fieldInstr_valid f h, hr, hstatus]

/-- A UINT result holds the zero-extension of its field (R38). -/
theorem Res.ofUint_setWidth {w : Nat} (v : BitVec w) :
    Res.ofUint (v.setWidth 32)
      = { tag := .uint, uint := BitVec.ofNat 32 v.toNat, count := 0
          words := Vector.replicate 15 0, profile := 0, bytes := [] } := by
  rw [BitVec.ofNat_toNat]
  rfl

/-- A BOOL result holds 1 or 0 (R38). -/
theorem Res.ofBool_eq (b : Bool) :
    Res.ofBool b
      = { tag := .bool, uint := if b then 1 else 0, count := 0
          words := Vector.replicate 15 0, profile := 0, bytes := [] } := by
  cases b <;> rfl

/-- Settles O21, field by field. -/
theorem getReturnsIntegerFields : Obligations.GetReturnsIntegerFields := by
  intro s h result
  exact ⟨exec_fieldInstr_of_fieldValue (f := .version) h (Res.ofUint_setWidth _),
    exec_fieldInstr_of_fieldValue (f := .payloadType) h (Res.ofUint_setWidth _),
    exec_fieldInstr_of_fieldValue (f := .sequenceNumber) h (Res.ofUint_setWidth _),
    exec_fieldInstr_of_fieldValue (f := .timestamp) h rfl,
    exec_fieldInstr_of_fieldValue (f := .ssrc) h rfl⟩

/-- Settles O22, flag by flag. -/
theorem getReturnsFlags : Obligations.GetReturnsFlags := by
  intro s h result
  exact ⟨exec_fieldInstr_of_fieldValue (f := .padding) h (Res.ofBool_eq _),
    exec_fieldInstr_of_fieldValue (f := .extension) h (Res.ofBool_eq _),
    exec_fieldInstr_of_fieldValue (f := .marker) h (Res.ofBool_eq _)⟩

/-- Settles O23: the result is the WORDS value of CC and CSRC. -/
theorem getReturnsCsrcList : Obligations.GetReturnsCsrcList := by
  intro s h
  exact ⟨Res.ofWords s.dfr.cc s.dfr.csrc, exec_fieldInstr_of_fieldValue (f := .csrcs) h rfl, rfl,
    rfl, Res.ofWords_get s.dfr.cc s.dfr.csrc, rfl, rfl, rfl⟩

/-- The value of GET ExtensionHeader: EXT_ABSENT or EXT_PRESENT as X says (R170). -/
theorem fieldValue_extensionHeader (d : DFR) :
    fieldValue .extensionHeader d
      = if d.x = true then
          { Res.reset with tag := .extPresent, profile := d.xprofile, bytes := d.xblock }
        else { Res.reset with tag := .extAbsent } := rfl

/-- Settles O24, by X; the block returned is DFR's, whose length the invariant gives. -/
theorem getReturnsExtension : Obligations.GetReturnsExtension := by
  intro s h
  have hvalue := fieldValue_extensionHeader s.dfr
  have hpresent (hx : s.dfr.x = true) :=
    exec_fieldInstr_of_fieldValue h (hvalue.trans (if_pos hx))
  have habsent (hx : s.dfr.x = false) :=
    exec_fieldInstr_of_fieldValue h (hvalue.trans (if_neg (ne_true_of_eq_false hx)))
  refine ⟨habsent, hpresent, fun hinv hx t ht => ?_⟩
  obtain ⟨-, -, ⟨-, -, -, hblock⟩, -⟩ := hinv
  obtain rfl := Host.Outcome.next.inj ((hpresent hx).symm.trans ht)
  exact hblock

/-- Settles O25: the result is the BYTES value of PAYLOAD. -/
theorem getReturnsPayload : Obligations.GetReturnsPayload := by
  intro s h
  exact exec_fieldInstr_of_fieldValue (f := .payload) h rfl

end Sys2Proof.Machine
end

section
/-! Failed commands: STATUS and the outputs that each command clears, by what each can do
(60_exceptions.md R195, R196). -/

namespace Sys2Proof.Machine

/-- OK = 0 rules out the success report. -/
theorem ne_statusOk_of_failed {op : BitVec 4} {st : Word} (hfail : stOk st = false) :
    st ≠ statusOk op := by
  rintro rfl
  exact absurd ((stOk_statusOk op).symm.trans hfail) nofun

section Failed
variable {s t : State} (hfail : stOk t.status = false)
include hfail

theorem execEnc_failed (h : execEnc s = .next t) :
    t = { s with status := t.status, obuf := [], eir := EIR.reset } := by
  rcases execEnc_cases s with ⟨f, -, hs⟩ | ⟨e, -, -, -, -, hs⟩ <;>
    obtain rfl := Host.Outcome.next.inj (hs.symm.trans h)
  · exact absurd rfl (ne_statusOk_of_failed hfail)
  · rfl

theorem execDec_failed (h : execDec s = .next t) :
    t = { s with status := t.status, dfr := DFR.reset } := by
  rcases execDec_cases s with ⟨d, -, hs⟩ | ⟨e, -, -, -, -, hs⟩ <;>
    obtain rfl := Host.Outcome.next.inj (hs.symm.trans h)
  · exact absurd rfl (ne_statusOk_of_failed hfail)
  · rfl

/-- A GET fails only without a decoded frame. -/
theorem completeGet_failed {value : DFR → Res} (h : completeGet value s = t) :
    t = { s with status := t.status, res := Res.reset } := by
  cases hvalid : s.dfr.valid with
  | true =>
    obtain rfl := (completeGet_valid value s hvalid).symm.trans h
    exact absurd rfl (ne_statusOk_of_failed hfail)
  | false =>
    obtain rfl := (completeGet_noFrame value s hvalid).symm.trans h
    rfl

end Failed

/-- Every GET that names no field clears RES: UNKNOWN_FIELD is an ACCESSOR error (R195). -/
theorem issue_unknownField {w : Word} {fid : BitVec 4} (h : decode w = .error (.unknownField fid))
    (s : State) :
    issue w s = .next { s with
      status := statusError (w.extractLsb' 0 4) ⟨.unknownField, .none, 0⟩, res := Res.reset } := by
  rw [issue_of_reject h, completeError_accessor _ _ _ rfl, rejectError]

/-- Settles O30: a failed command takes the error case of what it can do; a word without a row
completes with the error of its rejection. -/
theorem failedCommandsWriteOnlyTheirOutputs : Obligations.FailedCommandsWriteOnlyTheirOutputs := by
  intro s t hfail
  refine ⟨execEnc_failed hfail, execDec_failed hfail, fun i hi h => ?_, fun w fid hw h => ?_,
    fun w hw h => ?_⟩
  · obtain ⟨value, hexec⟩ := exec_of_isGet hi
    exact completeGet_failed hfail (Host.Outcome.next.inj ((hexec s).symm.trans h))
  · obtain rfl := Host.Outcome.next.inj ((issue_unknownField hw s).symm.trans h)
    rfl
  · rcases hw with hw | hw
    · obtain rfl := Host.Outcome.next.inj ((issue_illegalOp hw s).symm.trans h)
      rfl
    · obtain rfl := Host.Outcome.next.inj ((issue_reservedBits hw s).symm.trans h)
      rfl

end Sys2Proof.Machine
end

section
/-! Reset, and the frame a failed DEC leaves (70_reset_and_hazards.md R220, R225). -/

namespace Sys2Proof.Machine

/-- Settles O28: a failed DEC leaves the reset DFR, whose VALID is 0. -/
theorem failedDecLeavesNoFrame : Obligations.FailedDecLeavesNoFrame := by
  intro s t i hdec hfail hi
  have hvalid : t.dfr.valid = false :=
    congrArg (fun u => u.dfr.valid) (execDec_failed hfail hdec)
  exact getWithoutFrameReportsNoFrame t i hi hvalid

/-- Settles O41: EIR, DFR and RES take their reset values, in whose arrays every entry is the
same. -/
theorem resetWritesEveryRegister : Obligations.ResetWritesEveryRegister := by
  intro s
  have hcsrc (k : Fin 15) : EIR.reset.csrc[k] = none := Vector.getElem_replicate k.isLt
  have hframe (k : Fin 15) : DFR.reset.csrc[k] = 0 := Vector.getElem_replicate k.isLt
  have hwords (k : Fin 15) : Res.reset.words[k] = 0 := Vector.getElem_replicate k.isLt
  refine ⟨resetEvent s, rfl, ?_⟩
  simp only [resetEvent, State.resetWith, hcsrc, hframe, hwords]
  simp only [EIR.reset, DFR.reset, Res.reset, implies_true, and_self]

end Sys2Proof.Machine
end

section
/-! What each action of the host writes: reset every register, and any other action the registers
of its own alone (70_reset_and_hazards.md R221). -/

namespace Sys2Proof.Machine

/-- `Writes s a t`: performed in `s`, the action `a` writes its own registers alone and gives `t`.
One case per writer of R221. -/
inductive Writes (s : State) : HostAction → State → Prop
  | reset : Writes s .reset (resetEvent s)
  | read (n : BitVec 8) (l : List HostValue) : Writes s (.read n) { s with returned := l }
  | input (n : BitVec 8) (v : HostValue) (e : EIR) (hlo : 0x02 ≤ n.toNat) (hhi : n.toNat ≤ 0x1E) :
      Writes s (.write n v) { s with eir := e }
  | ibuf (b : Bytes) : Writes s (.write 0x20 (.bytes b)) { s with ibuf := b }
  | enc (st : Word) (o : Bytes) :
      Writes s (.write 0x00 (.int 0x00000001)) { s with status := st, obuf := o, eir := EIR.reset }
  | dec (st : Word) (d : DFR) :
      Writes s (.write 0x00 (.int 0x00000002)) { s with status := st, dfr := d }
  | get (fid : Fin 16) (st : Word) (r : Res) :
      Writes s (.write 0x00 (.int (0x03 + 0x10 * fid.val))) { s with status := st, res := r }
  | illegal (v : HostValue) (st : Word) : Writes s (.write 0x00 v) { s with status := st }

/-! Every action that has a step writes so. -/

/-- A command word with OP = GET and RSVD = 0 is 3 + 16 * FID (R70). -/
theorem toNat_getWord (fid : BitVec 4) :
    (CmdFields.toWord { op := 3, fid := fid, rsvd := 0 }).toNat = 0x03 + 0x10 * fid.toNat := by
  revert fid
  decide

/-- The decoder names an unknown field only for a GET word with RSVD = 0 (R74, R75). -/
theorem ofWord_of_unknownField {w : Word} {fid : BitVec 4}
    (h : decode w = .error (.unknownField fid)) :
    CmdFields.ofWord w = { op := 3, fid := (CmdFields.ofWord w).fid, rsvd := 0 } := by
  unfold decode at h
  generalize CmdFields.ofWord w = f at h ⊢
  simp only at h
  split_ifs at h with hop hrsvd hfid henc hdec
  · cases h
  · cases h
  · cases h
  · have hget : f.op = 3 := by_contra fun h3 => hop ⟨henc, hdec, h3⟩
    rw [← hget, ← not_not.mp hrsvd]

/-- A GET word writes STATUS and RES whether its FID names a field or not (R160). -/
theorem writes_get {s : State} {w : Word} {fid : BitVec 4}
    (h : CmdFields.ofWord w = { op := 3, fid := fid, rsvd := 0 }) (st : Word) (r : Res) :
    Writes s (.write 0x00 (.int w.toNat)) { s with status := st, res := r } := by
  have hw : w.toNat = 0x03 + 0x10 * fid.toNat := by rw [← toWord_ofWord w, h, toNat_getWord]
  rw [hw]
  exact .get fid.toFin st r

section
variable {s t : State}

theorem exec_writes {i : Instr} (h : exec i s = .next t) :
    Writes s (.write 0x00 (.int (encode i).toNat)) t := by
  rcases exec_cases i with ⟨rfl, heq⟩ | ⟨rfl, heq⟩ | ⟨henc, hdec, -⟩
  · obtain ⟨st, o, hnext⟩ := execEnc_writes s
    obtain rfl := Host.Outcome.next.inj (hnext.symm.trans h)
    exact .enc st o
  · obtain ⟨st, d, hnext⟩ := execDec_writes s.ibuf
    obtain rfl := Host.Outcome.next.inj ((hnext s rfl).symm.trans h)
    exact .dec st d
  · have hi : isGet i = true := by simp [isGet, henc, hdec]
    obtain ⟨st, r, hnext, -⟩ := getReadsFrameAndWritesResultOnly i s s hi rfl
    obtain rfl := Host.Outcome.next.inj (hnext.symm.trans h)
    have hword := ofWord_of_decode (decode_encode i)
    rw [Instr.op_of_get henc hdec] at hword
    exact writes_get hword st r

theorem issue_writes {w : Word} (h : issue w s = .next t) :
    Writes s (.write 0x00 (.int w.toNat)) t := by
  cases hw : decode w with
  | ok i =>
    obtain rfl := eq_encode_of_decode hw
    exact exec_writes ((issue_encode i s).symm.trans h)
  | error r =>
    cases r with
    | illegalOp =>
      obtain rfl := Host.Outcome.next.inj ((issue_illegalOp hw s).symm.trans h)
      exact .illegal _ _
    | reservedBits =>
      obtain rfl := Host.Outcome.next.inj ((issue_reservedBits hw s).symm.trans h)
      exact .illegal _ _
    | unknownField fid =>
      obtain rfl := Host.Outcome.next.inj ((issue_unknownField hw s).symm.trans h)
      exact writes_get (ofWord_of_unknownField hw) _ _

/-- The host-writable registers other than CMD and IBUF are the encoder inputs (R57). -/
theorem regNumber_input {c : Config} {r : Reg} {v : HostValue} (hadm : refuseWrite c r v = none)
    (hcmd : r ≠ .cmd) (hibuf : r ≠ .ibuf) :
    0x02 ≤ (regNumber r).toNat ∧ (regNumber r).toNat ≤ 0x1E := by
  cases r
  case cmd => exact absurd rfl hcmd
  case ibuf => exact absurd rfl hibuf
  case eCsrc k =>
    rw [regNumber_eCsrc_toNat]
    omega
  case status | obuf | resTag | resUint | resCount | resProfile | resBytes | resWords =>
    exact absurd hadm nofun
  all_goals decide

theorem writeReg_writes {r : Reg} {v : HostValue} (hadm : refuseWrite s.cfg r v = none)
    (hcmd : r ≠ .cmd) : Writes s (.write (regNumber r) v) (writeReg r v s) := by
  by_cases hibuf : r = .ibuf
  · subst hibuf
    cases v with
    | int v => exact absurd hadm nofun
    | bytes b => exact .ibuf b
  · obtain ⟨hlo, hhi⟩ := regNumber_input hadm hcmd hibuf
    rcases writeReg_eq r v s with ⟨e, heq, -⟩ | ⟨rfl, -⟩
    · rw [heq]
      exact .input _ v e hlo hhi
    · exact absurd rfl hibuf

theorem perform_writes {a : HostAction} (h : perform a s = .next t) : Writes s a t := by
  cases a with
  | write n v =>
    obtain ⟨r, hn, hadm, ⟨rfl, hissue⟩ | ⟨hcmd, rfl⟩⟩ := hostWrite_next.mp h
    · rw [eq_zero_of_regOfNumber_cmd hn, eq_int_of_hostWord hadm]
      exact issue_writes hissue
    · rw [← regOfNumber_eq_some.mp hn]
      exact writeReg_writes hadm hcmd
  | read n =>
    obtain ⟨r, v, -, -, rfl⟩ := hostRead_next.mp h
    exact .read n _
  | reset =>
    obtain rfl := Host.Outcome.next.inj h
    exact .reset

end

/-! Read by register: who can have changed it. -/

namespace Writes
variable {s t : State} {a : HostAction} (h : Writes s a t)
include h

theorem cfg_eq : t.cfg = s.cfg := by
  cases h <;> rfl

theorem pending_eq : t.pending = s.pending := by
  cases h <;> rfl

theorem status_writer (hne : t.status ≠ s.status) : a = .reset ∨ ∃ v, a = .write 0x00 v := by
  cases h
  case reset => exact .inl rfl
  case enc | dec | get | illegal => exact .inr ⟨_, rfl⟩
  all_goals exact absurd rfl hne

theorem eir_writer (hne : t.eir ≠ s.eir) :
    a = .reset ∨ a = .write 0x00 (.int 0x00000001)
      ∨ ∃ n v, a = .write n v ∧ 0x02 ≤ n.toNat ∧ n.toNat ≤ 0x1E := by
  cases h
  case reset => exact .inl rfl
  case enc => exact .inr (.inl rfl)
  case input n v e hlo hhi => exact .inr (.inr ⟨n, v, rfl, hlo, hhi⟩)
  all_goals exact absurd rfl hne

theorem ibuf_writer (hne : t.ibuf ≠ s.ibuf) : a = .reset ∨ a = .write 0x20 (.bytes t.ibuf) := by
  cases h
  case reset => exact .inl rfl
  case ibuf => exact .inr rfl
  all_goals exact absurd rfl hne

theorem obuf_writer (hne : t.obuf ≠ s.obuf) :
    a = .reset ∨ a = .write 0x00 (.int 0x00000001) := by
  cases h
  case reset => exact .inl rfl
  case enc => exact .inr rfl
  all_goals exact absurd rfl hne

theorem dfr_writer (hne : t.dfr ≠ s.dfr) : a = .reset ∨ a = .write 0x00 (.int 0x00000002) := by
  cases h
  case reset => exact .inl rfl
  case dec => exact .inr rfl
  all_goals exact absurd rfl hne

theorem res_writer (hne : t.res ≠ s.res) :
    a = .reset ∨ ∃ fid : Fin 16, a = .write 0x00 (.int (0x03 + 0x10 * fid.val)) := by
  cases h
  case reset => exact .inl rfl
  case get fid st r => exact .inr ⟨fid, rfl⟩
  all_goals exact absurd rfl hne

theorem returned_writer (hne : t.returned ≠ s.returned) : ∃ n, a = .read n := by
  cases h
  case read n l => exact ⟨n, rfl⟩
  all_goals exact absurd rfl hne

end Writes

/-- Settles O45: a step that changes anything performs one action, and each register is read off
what the action writes. -/
theorem registersChangeOnlyByTheirWriters : Obligations.RegistersChangeOnlyByTheirWriters := by
  intro s t h
  rcases step_cases s with ⟨-, heq⟩ | ⟨a, rest, hpending, heq⟩
  · obtain rfl := Host.Outcome.next.inj (heq.symm.trans h)
    exact ⟨rfl, fun hne => absurd rfl hne⟩
  · have hw : Writes (s.setPending rest) a t := perform_writes (heq.symm.trans h)
    exact ⟨hw.cfg_eq, fun _ => ⟨a, rest, hpending, hw.pending_eq, hw.status_writer, hw.eir_writer,
      hw.ibuf_writer, hw.obuf_writer, hw.dfr_writer, hw.res_writer, hw.returned_writer⟩⟩

end Sys2Proof.Machine
end
